-- ==== Sys2Proof/Word.lean ====
section
/-! DEFINITION. The word types of the core and their plainest arithmetic (00_scope.md R13 to R16). -/

namespace Sys2Proof

/-- A byte of BUF (20_memory.md R70). -/
abbrev Byte := BitVec 8

/-- A host register, an entry of RES or of SMP: 64 bits (00_scope.md R7). -/
abbrev Word := BitVec 64

/-- A bit position `0 .. 8 × LEN` with `LEN ≤ 2^61` (00_scope.md R11, R12). -/
abbrev Position := BitVec 65

/-- A command word (30_encoding.md R100). -/
abbrev CommandWord := BitVec 32

/-- `sext_N(v)` of 00_scope.md R14: the N-bit pattern v read as two's complement; `sext_0(v) = 0`. -/
def sext (n v : Nat) : Int :=
  if n = 0 then 0 else if 2 ^ (n - 1) ≤ v then (v : Int) - 2 ^ n else v

/-- `InRange(v, w)` of 00_scope.md R16: v fits a signed field of w bits, `1 ≤ w`. -/
abbrev InRange (v : Int) (w : Nat) : Prop :=
  -(2 ^ (w - 1) : Int) ≤ v ∧ v ≤ 2 ^ (w - 1) - 1

/-- The zig-zag fold `(u >> 1) ^ -(u & 1)` of 30_encoding.md R112, R113: even u to u/2, odd u to -(u+1)/2. -/
def zigzag (u : Nat) : Int :=
  if u % 2 = 0 then (u / 2 : Nat) else -((u / 2 : Nat) : Int) - 1

/-- A signed value as a 64-bit two's-complement entry. -/
abbrev wordOfInt (v : Int) : Word := BitVec.ofInt 64 v

end Sys2Proof
end

