-- ==== Sys2Proof/Config.lean ====
section
/-! DEFINITION. What the machine is fixed to: the parameters a model takes (00_scope.md R7 to R11) and the free values. -/

namespace Sys2Proof

/-- The core's identity string (00_scope.md R2); nothing computes with it. -/
def Config.identity : String := "SFLAC-CORE/v7"

/-- MAX_BLOCK of 00_scope.md R7: the largest block, and the number of entries of RES and of one channel of SMP. -/
def Config.maxBlock : Nat := 65535

/-- MAX_CHANNELS of 00_scope.md R7. -/
def Config.maxChannels : Nat := 8

/-- The parameters a model takes as arguments (00_scope.md R8 to R11, the table of 92_eei_decisions.md).
A State carries them, so that a statement for all states is one for all parameters; no step changes them (log 3). -/
structure Params where
  /-- P_UNARY_STOP: the bit value that ends a unary code (R8). -/
  unaryStop : Bool
  /-- P_CRC16_FROM_SYNC: the frame CRC-16 covers the frame from its first sync byte (R9). -/
  crc16FromSync : Bool
  /-- P_MAX_BPS: the largest nominal frame bit depth (R10). -/
  maxBps : Nat
  /-- P_MAX_SUBFRAME_BPS: the largest subframe bit depth (R10). -/
  maxSubframeBps : Nat
  /-- P_MAX_LPC_ORDER: the largest LPC order (R10). -/
  maxLpcOrder : Nat
  /-- P_BUF_MAX: how many bytes BUF can hold (R11). -/
  bufMax : Nat
  deriving DecidableEq, Repr

/-- The normative values of R8, R9 and R10. P_BUF_MAX is OPEN in the spec: DESIGN CHOICE, log 3 (unsafe: a claim
at this value need not hold of hardware with a smaller buffer). -/
def Params.normative : Params where
  unaryStop := false
  crc16FromSync := false
  maxBps := 32
  maxSubframeBps := 33
  maxLpcOrder := 32
  bufMax := 2 ^ 61

/-- The values the spec allows each parameter (R8 to R11, the table of 92_eei_decisions.md). -/
abbrev Params.Legal (p : Params) : Prop :=
  4 ≤ p.maxBps ∧ p.maxBps ≤ 32 ∧ 5 ≤ p.maxSubframeBps ∧ p.maxSubframeBps ≤ 33 ∧
  1 ≤ p.maxLpcOrder ∧ p.maxLpcOrder ≤ 32 ∧ 1 ≤ p.bufMax ∧ p.bufMax ≤ 2 ^ 61

/-- FREE VALUE (log 5): the bits a register holds after a failed command left it UNDEF, by how many draws came before
and the register's number (60_exceptions.md R303: "Real hardware leaves some bit pattern there; the spec does not
say which"). It has no body, so no proof can see a value of it. -/
opaque Config.freeRegister : Nat → Nat → Word

/-- FREE VALUE (log 7): what the host reads in the 64-bit register POS when the cursor stands at bit position 2^64, the
end of a full buffer of 2^61 bytes (R11), which 64 bits cannot hold; the spec states no value there (R14, R31). -/
opaque Config.endPosition : Word

end Sys2Proof
end

