-- ==== Sys2Proof/Syntax.lean ====
section
/-! DEFINITION. The instructions: one constructor per row of spec/opcode_table.json. -/

namespace Sys2Proof

/-- The rows of the opcode table. The first sixteen are commands (30_encoding.md R102); their operands are the unsigned
8-bit fields A, B, C of the command word, used as they are (R100). The last eight are subframe headers (30_encoding.md
R130, 44_subframe.md R221), which SUBF reads from the bitstream; `wasted` is the wasted-bits flag (log 1). -/
inductive Instr where
  /-- RDB n: read an n-bit unsigned field (R150). -/
  | rdb (n : Byte)
  /-- RDS n: read an n-bit signed field (R151). -/
  | rds (n : Byte)
  /-- RDU: read a unary code (R152). -/
  | rdu
  /-- RDR k: read one Rice-coded signed value (R153). -/
  | rdr (k : Byte)
  /-- ALN: align to a byte boundary (R154). -/
  | aln
  /-- GC8: read the CRC-8 accumulator (R155). -/
  | gc8
  /-- GC16: read the CRC-16 accumulator (R156). -/
  | gc16
  /-- CRCR: reset both CRC accumulators (R157). -/
  | crcr
  /-- FIXP order, c, w: fixed-order reconstruction (R180). -/
  | fixp (order c w : Byte)
  /-- LPCP order, c, w: linear-prediction reconstruction (R182). -/
  | lpcp (order c w : Byte)
  /-- RESD order: decode one residual section (R200). -/
  | resd (order : Byte)
  /-- SUBF c, bps: decode one subframe into channel c (R220). -/
  | subf (c bps : Byte)
  /-- DECOR a, bps: undo the inter-channel decorrelation (R240). -/
  | decor (a bps : Byte)
  /-- FHDR: parse and validate one frame header (R260). -/
  | fhdr
  /-- FFTR: byte-align and verify the frame CRC-16 (R270). -/
  | fftr
  /-- FRAME: decode one whole frame (R280). -/
  | frame
  /-- Subframe header of kind Constant (R228). -/
  | sfConstant (wasted : Bool)
  /-- Subframe header of kind Verbatim (R230). -/
  | sfVerbatim (wasted : Bool)
  /-- Subframe header of kind Fixed, order 0 (R226). -/
  | sfFixed0 (wasted : Bool)
  /-- Subframe header of kind Fixed, order 1 (R226). -/
  | sfFixed1 (wasted : Bool)
  /-- Subframe header of kind Fixed, order 2 (R226). -/
  | sfFixed2 (wasted : Bool)
  /-- Subframe header of kind Fixed, order 3 (R226). -/
  | sfFixed3 (wasted : Bool)
  /-- Subframe header of kind Fixed, order 4 (R226). -/
  | sfFixed4 (wasted : Bool)
  /-- Subframe header of kind LPC; its order is `orderMinus1 + 1` (R227). -/
  | sfLpc (orderMinus1 : BitVec 5) (wasted : Bool)
  deriving DecidableEq, Repr

end Sys2Proof
end

