-- ==== Sys2Proof/Machine/State.lean ====
section
/-! DEFINITION. The state of the core (10_state.md, 20_memory.md), its reset (70_reset_and_hazards.md R340), and the
reasons a step can stop. -/

namespace Sys2Proof.Machine

/-- BUF: the bytes the host has written, by address. An unlisted byte holds no value (log 6). -/
abbrev Memory := List Host.Cell

/-- RES or SMP: the entries that hold a value, by host address (R76, R77). An unlisted entry is UNDEF (R52). -/
abbrev Entries := List (Nat × Word)

/-- The canonical form of a list of addressed cells: addresses strictly rising. An unlisted address reads as no value,
so no listed cell equals what an unlisted one reads as. -/
def cellsWf {α : Type} : List (Nat × α) → Bool
  | [] => true
  | [_] => true
  | c :: d :: rest => decide (c.1 < d.1) && cellsWf (d :: rest)

/-- BUF is in canonical form. -/
def Memory.wf (m : Memory) : Bool := cellsWf m

/-- RES or SMP is in canonical form. -/
def Entries.wf (m : Entries) : Bool := cellsWf m

/-- The status codes of 30_encoding.md R104; 7 to 15 are never produced. -/
inductive Code where
  | ok
  | outOfData
  | malformedStream
  | unsupportedStream
  | integrityError
  | resync
  | illegalCommand
  deriving DecidableEq, Repr

/-- The StreamInfo registers 0x10..0x17 (10_state.md R40). -/
structure StreamInfo where
  rate : BitVec 20
  channels : BitVec 4
  bps : BitVec 6
  total : BitVec 36
  minBlock : BitVec 16
  maxBlock : BitVec 16
  minFrame : BitVec 24
  maxFrame : BitVec 24
  deriving DecidableEq, Repr

/-- The frame header registers 0x20..0x27 (10_state.md R41); `blockSize` is NBLK (R42). -/
structure FrameHeader where
  blocking : BitVec 1
  blockSize : BitVec 17
  rate : BitVec 20
  chAssign : BitVec 4
  channels : BitVec 4
  bps : BitVec 6
  number : BitVec 36
  crc8 : BitVec 8
  deriving DecidableEq, Repr

/-- The subframe registers 0x30..0x34 (10_state.md R43); `shift` is read as signed. -/
structure SubframeRegs where
  type : BitVec 6
  order : BitVec 6
  wasted : BitVec 6
  prec : BitVec 5
  shift : BitVec 5
  deriving DecidableEq, Repr

/-- The command snapshot (10_state.md R48): what a fatal end restores (60_exceptions.md R302). -/
structure Snapshot where
  pos : Position
  crc8 : BitVec 8
  crc16 : BitVec 16
  result : Word
  deriving DecidableEq, Repr

/-- The operands of the SUBF whose subframe header is fetched as an instruction (log 1). -/
structure SubframeOperands where
  channel : Byte
  bps : Byte
  deriving DecidableEq, Repr

/-- What the host can do to the core (20_memory.md R85): one access, whole and aligned (R78). -/
inductive HostAccess where
  /-- Write a host register (R51); register 0x00 is CMD and issues a command (R38). -/
  | writeRegister (number : BitVec 7) (value : Word)
  /-- Read a host register (R51). -/
  | readRegister (number : BitVec 7)
  /-- Write a byte of BUF (R70, R75). -/
  | writeBuf (address : Nat) (value : Byte)
  /-- Read a byte of BUF (R75). -/
  | readBuf (address : Nat)
  /-- Write an entry of RES (R76). -/
  | writeRes (address : Nat) (value : Word)
  /-- Read an entry of RES (R76). -/
  | readRes (address : Nat)
  /-- Write an entry of SMP at `c × 65536 + i` (R77). -/
  | writeSmp (address : Nat) (value : Word)
  /-- Read an entry of SMP (R77). -/
  | readSmp (address : Nat)
  /-- The reset signal (R85, R340). -/
  | reset
  deriving DecidableEq, Repr

/-- The state of the core and of its one host. -/
structure State where
  /-- The parameters, which no step changes (R340, log 3). -/
  cfg : Params
  /-- POS: the bit position of the next bit the cursor consumes (R31). 65 bits hold every one of `0 .. 8 × LEN`, up to
  the 2^64 at the end of a buffer of 2^61 bytes (R11); the host reads 64 of them (log 7). -/
  pos : Position
  /-- LEN: how many bytes of BUF are valid (R32). -/
  len : Word
  /-- The running CRC-8 (R33). -/
  crc8 : BitVec 8
  /-- The running CRC-16 (R34). -/
  crc16 : BitVec 16
  /-- RESULT (R35). -/
  result : Word
  /-- STATUS.CODE (R36). -/
  code : Code
  /-- STATUS.VALID (R36, R271). -/
  valid : Bool
  /-- STATUS.STICKY (R36). -/
  sticky : Bool
  /-- CTRL.SCAN (R37). -/
  scan : Bool
  /-- SI_RATE to SI_MAXFRM (R40). -/
  si : StreamInfo
  /-- SI_VALID (R40). -/
  siValid : Bool
  /-- FH_BLOCKING to FH_CRC8 (R41). -/
  fh : FrameHeader
  /-- SF_TYPE to SF_SHIFT (R43). -/
  sf : SubframeRegs
  /-- QLP[0..31] (R44). -/
  qlp : Vector (BitVec 16) 32
  /-- The UNDEF marks (R18, R52, R303): bit n is set when register number n holds UNDEF. The complement of bits
  0x10..0x17 is the hidden "written" bits of R48 (log 18). -/
  undef : BitVec 128
  /-- Which registers a failed command has left UNDEF since reset (R18, R303). A register marked UNDEF and not listed here has
  not been written since reset, and holds its reset value (log 4). -/
  spoiled : BitVec 128
  /-- The record of a model fault (R316, R358; "the model records a fault", 93_implementation_defined.md): a command has read
  a register that nothing had written since reset (log 4). -/
  undefRead : Bool
  /-- BUF (R70). -/
  buf : Memory
  /-- RES (R45), by entry number. -/
  res : Entries
  /-- SMP (R46), entry [c][i] at `c × 65536 + i`. -/
  smp : Entries
  /-- The command snapshot; none when no command is running (R48). -/
  snap : Option Snapshot
  /-- MODEL'S OWN: how many free values have been drawn (log 5). -/
  freeCtr : Nat
  /-- MODEL'S OWN: the SUBF whose subframe header is fetched next as an instruction (log 1). -/
  sub : Option SubframeOperands
  /-- MODEL'S OWN: the accesses of the host not yet served, oldest first (log 2). -/
  inbox : List HostAccess
  /-- MODEL'S OWN: what the host's last read returned; none is UNDEF (R51, log 16). -/
  hostData : Option Word
  deriving DecidableEq, Repr

/-- The model faults that leave a step no next state (R316, R358). -/
inductive Fault where
  /-- Raised when a command reads a register that a failed command has left UNDEF: "a later read of one is a model fault"
  (R303; R18, R316). Safe: the hardware goes on. -/
  | undefRegister
  /-- Raised when a command reads an entry of RES or SMP that holds UNDEF (R52, R316). Safe: the hardware goes on. -/
  | undefEntry
  /-- Raised when the cursor reads a byte of BUF that nothing has written (R340, R316). Safe: the hardware goes on. -/
  | undefByte
  /-- Raised by a host access to a byte of BUF at or above P_BUF_MAX, which does not exist (R75, log 9). Safe. -/
  | noSuchByte
  deriving DecidableEq, Repr

/-- The refusals. -/
inductive Refusal where
  /-- Answered by exec's arm of an instruction that has no meaning yet. Safe. -/
  | notModelled (mnemonic : String)
  /-- Answered for a subframe header run while no SUBF waits for one; the spec gives a header no effect of its own,
  only inside SUBF (R220, log 1). Safe. -/
  | noSubframe
  deriving DecidableEq, Repr

/-- The registers that hold UNDEF after reset (R340): 0x10..0x17, 0x20..0x27, 0x30..0x34, 0x40..0x5F. -/
def undefAtReset : BitVec 128 := 0x00000000FFFFFFFF001F00FF00FF0000#128

/-- The state right after reset (70_reset_and_hazards.md R340). A register whose reset value is UNDEF is marked so in
`undef`, which is what the host reads, and holds 0 (DESIGN CHOICE, log 4, unsafe); the parameters have their normative values (log 3). -/
def State.reset : State where
  cfg := Params.normative
  pos := 0
  len := 0
  crc8 := 0
  crc16 := 0
  result := 0
  code := .ok
  valid := false
  sticky := false
  scan := false
  si := { rate := 0, channels := 0, bps := 0, total := 0, minBlock := 0, maxBlock := 0, minFrame := 0, maxFrame := 0 }
  siValid := false
  fh := { blocking := 0, blockSize := 0, rate := 0, chAssign := 0, channels := 0, bps := 0, number := 0, crc8 := 0 }
  sf := { type := 0, order := 0, wasted := 0, prec := 0, shift := 0 }
  qlp := Vector.replicate 32 0
  undef := undefAtReset
  spoiled := 0
  undefRead := false
  buf := []
  res := []
  smp := []
  snap := none
  freeCtr := 0
  sub := none
  inbox := []
  hostData := none

end Sys2Proof.Machine
end

