-- ==== Sys2Proof/Machine/Crc.lean ====
section
/-! DEFINITION. The two CRC engines (41_bitcursor.md R160, R161): most significant bit first, no reflection, no final XOR. -/

namespace Sys2Proof.Machine

/-- One shift of the CRC-8 register, polynomial 0x07 (R160). -/
def crc8Shift (c : BitVec 8) : BitVec 8 :=
  if c.getLsbD 7 then (c <<< 1) ^^^ 0x07#8 else c <<< 1

/-- `Crc8Byte(c, b)` (R160). -/
def crc8Byte (c : BitVec 8) (b : Byte) : BitVec 8 := crc8Shift^[8] (c ^^^ b)

/-- One shift of the CRC-16 register, polynomial 0x8005 (R161). -/
def crc16Shift (c : BitVec 16) : BitVec 16 :=
  if c.getLsbD 15 then (c <<< 1) ^^^ 0x8005#16 else c <<< 1

/-- `Crc16Byte(c, b)` (R161). -/
def crc16Byte (c : BitVec 16) (b : Byte) : BitVec 16 := crc16Shift^[8] (c ^^^ (b.setWidth 16 <<< 8))

end Sys2Proof.Machine
end

