-- ==== Sys2Proof/Machine/Flags.lean ====
section
/-! DEFINITION. The flags of the core (10_state.md R49): the status codes, the fields of STATUS and CTRL as the host sees
them, and what sets and clears them. There are no arithmetic condition codes. -/

namespace Sys2Proof.Machine

/-- The value of STATUS.CODE (30_encoding.md R104). -/
def Code.value : Code → Nat
  | .ok => 0
  | .outOfData => 1
  | .malformedStream => 2
  | .unsupportedStream => 3
  | .integrityError => 4
  | .resync => 5
  | .illegalCommand => 6

/-- The fatal codes (R104): a command that ends with one has the effects of 60_exceptions.md R302. -/
def Code.fatal : Code → Bool
  | .ok => false
  | .outOfData => true
  | .malformedStream => true
  | .unsupportedStream => true
  | .integrityError => false
  | .resync => true
  | .illegalCommand => true

/-- STATUS as the host reads it (R36): CODE in bits [3:0], VALID in bit 8, STICKY in bit 16, all others 0. -/
def statusWord (s : State) : Word :=
  BitVec.ofNat 64 (s.code.value + (if s.valid then 2 ^ 8 else 0) + (if s.sticky then 2 ^ 16 else 0))

/-- CTRL as the host reads it (R37). -/
def ctrlWord (s : State) : Word := if s.scan then 1 else 0

/-- Register 0x07 as the host reads it (R51): CRC8 in bits [7:0], CRC16 in bits [23:8]. -/
def crcWord (s : State) : Word := BitVec.ofNat 64 (s.crc8.toNat + 2 ^ 8 * s.crc16.toNat)

/-- STATUS.CODE. -/
def setCode (c : Code) (s : State) : State := { s with code := c }

/-- STATUS.VALID (R271). -/
def setValid (v : Bool) (s : State) : State := { s with valid := v }

/-- STATUS.STICKY (R36). -/
def setSticky (v : Bool) (s : State) : State := { s with sticky := v }

/-- A host write to STATUS: bit 16 set clears STICKY, every other written bit is ignored (R36). -/
def writeStatus (v : Word) (s : State) : State := if v.getLsbD 16 then setSticky false s else s

/-- A host write to CTRL: bit 0 is SCAN, the others are ignored (R37). -/
def writeCtrl (v : Word) (s : State) : State := { s with scan := v.getLsbD 0 }

end Sys2Proof.Machine
end

