-- ==== Sys2Proof/Machine/Ops.lean ====
section
/-! DEFINITION. The shared operations: addressed cells, the updates of the state, the parts a command is made of (`Cmd`),
the cursor primitives of 00_scope.md R17, and the start and the two ends of a command (60_exceptions.md R302, R304). -/

namespace Sys2Proof.Machine

/-! Addressed cells (BUF, RES, SMP). -/

/-- What the cell at an address holds; none when nothing is listed there. -/
def cellGet {α : Type} : List (Nat × α) → Nat → Option α
  | [], _ => none
  | c :: rest, a => if a = c.1 then some c.2 else cellGet rest a

/-- Writing the cell at an address, keeping addresses strictly rising. -/
def cellSet {α : Type} : List (Nat × α) → Nat → α → List (Nat × α)
  | [], a, v => [(a, v)]
  | c :: rest, a, v =>
    if a < c.1 then (a, v) :: c :: rest
    else if a = c.1 then (a, v) :: rest
    else c :: cellSet rest a v

/-- Removing `count` cells from address `lo` on: they hold no value any more. -/
def cellErase {α : Type} (m : List (Nat × α)) (lo count : Nat) : List (Nat × α) :=
  m.filter (fun c => !(decide (lo ≤ c.1) && decide (c.1 < lo + count)))

/-! Updates of the state. -/

/-- The number of samples in a block, `NBLK` (R42). -/
def nblkOf (s : State) : Nat := s.fh.blockSize.toNat

/-- The SMP address of SMP[c][i] (20_memory.md R77). -/
def smpAddress (c i : Nat) : Nat := c * 65536 + i

/-- The UNDEF marks with register n marked as holding a value. -/
def clearMark (n : Nat) (u : BitVec 128) : BitVec 128 := u &&& ~~~(1#128 <<< n)

/-- The marks of the registers `lo .. lo + count - 1`. -/
def markRange (lo count : Nat) : BitVec 128 := BitVec.ofNat 128 ((2 ^ count - 1) * 2 ^ lo)

/-- Move the cursor. -/
def setPos (p : Nat) (s : State) : State := { s with pos := BitVec.ofNat 65 p }

/-- Write both CRC accumulators. -/
def setCrcs (c8 : BitVec 8) (c16 : BitVec 16) (s : State) : State := { s with crc8 := c8, crc16 := c16 }

/-- Fold a byte into both CRCs (41_bitcursor.md R162). -/
def feedByte (b : Byte) (s : State) : State := setCrcs (crc8Byte s.crc8 b) (crc16Byte s.crc16 b) s

/-- Write RESULT (R35). -/
def setResult (v : Word) (s : State) : State := { s with result := v }

/-- Write an entry of RES. -/
def setRes (i : Nat) (v : Word) (s : State) : State := { s with res := cellSet s.res i v }

/-- Write an entry of SMP. -/
def setSmp (c i : Nat) (v : Word) (s : State) : State := { s with smp := cellSet s.smp (smpAddress c i) v }

/-- Write all frame header registers together (46_frame.md R268). -/
def setFrameHeader (h : FrameHeader) (s : State) : State :=
  { s with fh := h, undef := s.undef &&& ~~~(markRange 0x20 8) }

/-- Write SF_TYPE, SF_ORDER and SF_WASTED (44_subframe.md R232). -/
def setSubframeHeader (t order wasted : Nat) (s : State) : State :=
  { s with
    sf := { s.sf with type := BitVec.ofNat 6 t, order := BitVec.ofNat 6 order, wasted := BitVec.ofNat 6 wasted },
    undef := s.undef &&& ~~~(markRange 0x30 3) }

/-- Write SF_PREC (R227). -/
def setPrec (p : Nat) (s : State) : State :=
  { s with sf := { s.sf with prec := BitVec.ofNat 5 p }, undef := clearMark 0x33 s.undef }

/-- Write SF_SHIFT (R227, R43). -/
def setShift (v : BitVec 5) (s : State) : State :=
  { s with sf := { s.sf with shift := v }, undef := clearMark 0x34 s.undef }

/-- Write QLP[j] (R44). -/
def setQlp (j : Nat) (v : BitVec 16) (s : State) : State :=
  { s with qlp := s.qlp.setIfInBounds j v, undef := clearMark (0x40 + j) s.undef }

/-- The coefficient QLP[j], read as signed (R44). -/
def qlpOf (s : State) (j : Nat) : Int := (s.qlp[j]?.getD 0).toInt

/-! What a failed command leaves UNDEF (60_exceptions.md R303). -/

/-- `count` entries of RES from `lo` on become UNDEF. -/
def undefRes (lo count : Nat) (s : State) : State := { s with res := cellErase s.res lo count }

/-- `count` entries of SMP[c] from `lo` on become UNDEF. -/
def undefSmp (c lo count : Nat) (s : State) : State :=
  { s with smp := cellErase s.smp (smpAddress c lo) count }

/-- Every SF and QLP register becomes UNDEF: marked so, its bits free values (log 5). -/
def undefSubframeRegs (s : State) : State :=
  { s with
    sf :=
      { type := (Config.freeRegister s.freeCtr 0x30).setWidth 6
        order := (Config.freeRegister s.freeCtr 0x31).setWidth 6
        wasted := (Config.freeRegister s.freeCtr 0x32).setWidth 6
        prec := (Config.freeRegister s.freeCtr 0x33).setWidth 5
        shift := (Config.freeRegister s.freeCtr 0x34).setWidth 5 }
    qlp := Vector.ofFn (fun j => (Config.freeRegister s.freeCtr (0x40 + j.val)).setWidth 16)
    undef := s.undef ||| markRange 0x30 5 ||| markRange 0x40 32
    spoiled := s.spoiled ||| markRange 0x30 5 ||| markRange 0x40 32
    freeCtr := s.freeCtr + 1 }

/-- Every FH register becomes UNDEF: marked so, its bits free values (log 5). -/
def undefFrameHeader (s : State) : State :=
  { s with
    fh :=
      { blocking := (Config.freeRegister s.freeCtr 0x20).setWidth 1
        blockSize := (Config.freeRegister s.freeCtr 0x21).setWidth 17
        rate := (Config.freeRegister s.freeCtr 0x22).setWidth 20
        chAssign := (Config.freeRegister s.freeCtr 0x23).setWidth 4
        channels := (Config.freeRegister s.freeCtr 0x24).setWidth 4
        bps := (Config.freeRegister s.freeCtr 0x25).setWidth 6
        number := (Config.freeRegister s.freeCtr 0x26).setWidth 36
        crc8 := (Config.freeRegister s.freeCtr 0x27).setWidth 8 }
    undef := s.undef ||| markRange 0x20 8
    spoiled := s.spoiled ||| markRange 0x20 8
    freeCtr := s.freeCtr + 1 }

/-- The rows of R303's table. -/
inductive CommandKind where
  /-- RDB, RDS, RDU, RDR, ALN, GC8, GC16, CRCR, FHDR: nothing becomes UNDEF. -/
  | plain
  /-- FFTR: nothing becomes UNDEF; STATUS.VALID is cleared (R302). -/
  | footer
  /-- FIXP and LPCP on channel c. -/
  | predictor (c order : Nat)
  /-- RESD. -/
  | residual (order : Nat)
  /-- SUBF into channel c. -/
  | subframe (c : Nat)
  /-- DECOR. -/
  | decorrelator
  /-- FRAME. -/
  | frame
  deriving DecidableEq, Repr

/-- The table of R303. -/
def undefine (k : CommandKind) (s : State) : State :=
  match k with
  | .plain => s
  | .footer => s
  | .predictor c order => undefSmp c order (nblkOf s - order) s
  | .residual order => undefRes 0 (nblkOf s - order) s
  | .subframe c => undefSubframeRegs (undefSmp c 0 (nblkOf s) (undefRes 0 (nblkOf s) s))
  | .decorrelator => undefSmp 1 0 (nblkOf s) (undefSmp 0 0 (nblkOf s) s)
  | .frame => undefFrameHeader (undefSubframeRegs { s with res := [], smp := [] })

/-- Whether a fatal end clears STATUS.VALID (R302, R271). -/
def CommandKind.clearsValid : CommandKind → Bool
  | .plain => false
  | .footer => true
  | .predictor _ _ => false
  | .residual _ => false
  | .subframe _ => false
  | .decorrelator => false
  | .frame => true

/-! The start and the ends of a command. -/

/-- A command starts: the core records the snapshot (R48). -/
def beginCommand (s : State) : State :=
  { s with snap := some { pos := s.pos, crc8 := s.crc8, crc16 := s.crc16, result := s.result } }

/-- POS, CRC8, CRC16 and RESULT take the values of the snapshot (R302). -/
def restoreSnapshot (s : State) : State :=
  match s.snap with
  | none => s
  | some n => { s with pos := n.pos, crc8 := n.crc8, crc16 := n.crc16, result := n.result, snap := none }

/-- A command completes with OK or IntegrityError (R304): the code is written and the snapshot dropped. -/
def endCommand (c : Code) (s : State) : State := { s with code := c, snap := none }

/-- THE FATAL END (60_exceptions.md R302), the core's one way of reporting an error: the snapshot is restored,
CODE and STICKY are written and, unless the code is IllegalCommand, VALID is cleared for FFTR and FRAME and the
entries of R303 become UNDEF. There is no trap and no return (R308). -/
def fatalEnd (k : CommandKind) (c : Code) (s : State) : State :=
  let t := setSticky true (setCode c (restoreSnapshot s))
  if c = .illegalCommand then t
  else undefine k (if k.clearsValid then setValid false t else t)

/-! The parts of a command. -/

/-- How a part of a command ends: with a value, with a raised code, or with a model fault. -/
inductive Res (α : Type) where
  | ok (a : α) (s : State)
  | raised (c : Code) (s : State)
  | faulted (f : Fault)
  deriving DecidableEq, Repr

/-- A part of a command: it runs on the state and ends as `Res` says. -/
abbrev Cmd (α : Type) := State → Res α

/-- Do nothing and give a value. -/
def Cmd.pure {α : Type} (a : α) : Cmd α := fun s => .ok a s

/-- One part, then another that uses its value; the first raise or fault ends both (60_exceptions.md R305). -/
def Cmd.bind {α β : Type} (m : Cmd α) (k : α → Cmd β) : Cmd β := fun s =>
  match m s with
  | .ok a t => k a t
  | .raised c t => .raised c t
  | .faulted f => .faulted f

/-- One part, then another. -/
def Cmd.andThen {α β : Type} (m : Cmd α) (k : Cmd β) : Cmd β := m.bind (fun _ => k)

/-- `raise c` of R17. -/
def Cmd.raise {α : Type} (c : Code) : Cmd α := fun s => .raised c s

/-- `if not p: raise c`. -/
def Cmd.require (p : Prop) [Decidable p] (c : Code) : Cmd Unit := if p then Cmd.pure () else Cmd.raise c

/-- A value computed from the state. -/
def Cmd.read {α : Type} (f : State → α) : Cmd α := fun s => .ok (f s) s

/-- An update of the state. -/
def Cmd.update (f : State → State) : Cmd Unit := fun s => .ok () (f s)

/-- `for i in first .. first + count - 1`. -/
def Cmd.forRange (body : Nat → Cmd Unit) : (count first : Nat) → Cmd Unit
  | 0, _ => Cmd.pure ()
  | n + 1, i => (body i).andThen (Cmd.forRange body n (i + 1))

/-- Run a command on a state: the snapshot, the command's parts, and one of the two ends. -/
def runCommand (k : CommandKind) (body : Cmd Code) (s : State) : Host.Outcome State Fault Refusal :=
  match body (beginCommand s) with
  | .ok c t => .next (endCommand c t)
  | .raised c t => .next (fatalEnd k c t)
  | .faulted f => .fault f

/-- A command whose word is refused: IllegalCommand and nothing else (30_encoding.md R101). -/
def illegalWord (s : State) : Host.Outcome State Fault Refusal :=
  runCommand .plain (Cmd.raise .illegalCommand) s

/-! The cursor (41_bitcursor.md). -/

/-- `MemRead(addr, 1)` (20_memory.md R71). -/
def memRead (a : Nat) : Cmd Byte := fun s =>
  match cellGet s.buf a with
  | some b => .ok b s
  | none => .faulted .undefByte

/-- `Bit(p)` (20_memory.md R72). -/
def bitAt (p : Nat) : Cmd Bool := (memRead (p / 8)).bind fun b => Cmd.pure (b.getLsbD (7 - p % 8))

/-- How many bits remain before the end of the buffer. -/
def bitsLeft (s : State) : Nat := 8 * s.len.toNat - s.pos.toNat

/-- Consume one bit; a byte whose last bit is consumed is fed to both CRCs (R162). -/
def advanceOne : Cmd Unit := fun s =>
  let p := s.pos.toNat + 1
  if p % 8 = 0 then ((memRead (p / 8 - 1)).bind fun b => Cmd.update (feedByte b)) (setPos p s)
  else .ok () (setPos p s)

/-- `Advance(n)` (R162). -/
def advance : Nat → Cmd Unit
  | 0 => Cmd.pure ()
  | n + 1 => advanceOne.andThen (advance n)

/-- The n bits from position p on, most significant first, appended to v (20_memory.md R73). -/
def peekBits : (n p v : Nat) → Cmd Nat
  | 0, _, v => Cmd.pure v
  | n + 1, p, v => (bitAt p).bind fun b => peekBits n (p + 1) (2 * v + b.toNat)

/-- `ReadBits(n)` (R150). -/
def readBits (n : Nat) : Cmd Nat := fun s =>
  if s.pos.toNat + n > 8 * s.len.toNat then .raised .outOfData s
  else ((peekBits n s.pos.toNat 0).bind fun v => (advance n).andThen (Cmd.pure v)) s

/-- `ReadSigned(n)` (R151). -/
def readSigned (n : Nat) : Cmd Int :=
  if n = 0 then Cmd.pure 0 else (readBits n).bind fun v => Cmd.pure (sext n v)

/-- The search for the stop bit of a unary code: `left` bits remain and q bits have been seen (R152). -/
def scanUnary : (left q : Nat) → Cmd Nat
  | 0, _ => Cmd.raise .malformedStream
  | n + 1, q => fun s =>
    ((bitAt (s.pos.toNat + q)).bind fun b => if b = s.cfg.unaryStop then Cmd.pure q else scanUnary n (q + 1)) s

/-- `ReadUnary()` (R152). -/
def readUnary : Cmd Nat := fun s =>
  ((scanUnary (bitsLeft s) 0).bind fun q => (advance (q + 1)).andThen (Cmd.pure q)) s

/-- `ReadRice(k)` (R153). -/
def readRice (k : Nat) : Cmd Int :=
  readUnary.bind fun q =>
  (Cmd.require (q < 2 ^ (64 - k)) .malformedStream).andThen <|
  (readBits k).bind fun r =>
  Cmd.pure (zigzag (q * 2 ^ k + r))

/-- `ByteAlign()` (R154). -/
def byteAlign : Cmd Unit := fun s => advance ((8 - s.pos.toNat % 8) % 8) s

end Sys2Proof.Machine
end

