-- ==== Sys2Proof/Machine/Operands.lean ====
section
/-! DEFINITION. The operands of the commands: the ranges of the fields of the command word (30_encoding.md R101, R102), the
checked block size (10_state.md R42), and the registers, RES and SMP entries a command reads and writes. -/

namespace Sys2Proof.Machine

/-- The word check of a used field: outside its range the command is IllegalCommand (R101). -/
def operandCheck (p : Prop) [Decidable p] : Cmd Unit := Cmd.require p .illegalCommand

/-- A command reads register number n (R18, R52, R316). What a failed command left UNDEF it does not compute with: that read
is the model fault of R303. A register that nothing has written since reset holds its reset value, and the command goes on
with it, a model fault recorded (log 4). -/
def useRegister (n : Nat) : Cmd Unit := fun s =>
  match s.undef.getLsbD n, s.spoiled.getLsbD n with
  | false, _ => .ok () s
  | true, false => .ok () { s with undefRead := true }
  | true, true => .faulted .undefRegister

/-- NBLK, checked: `1 ≤ NBLK ≤ 65535`, else IllegalCommand (R42). -/
def checkedNblk : Cmd Nat :=
  (useRegister 0x21).andThen <|
  (Cmd.read nblkOf).bind fun n =>
  (Cmd.require (1 ≤ n ∧ n ≤ 65535) .illegalCommand).andThen <|
  Cmd.pure n

/-- SF_SHIFT, signed (R43). -/
def readShift : Cmd Int := (useRegister 0x34).andThen (Cmd.read fun s => s.sf.shift.toInt)

/-- QLP[j], signed (R44). -/
def readQlp (j : Nat) : Cmd Int := (useRegister (0x40 + j)).andThen (Cmd.read fun s => qlpOf s j)

/-- RES[i] (R45). -/
def readRes (i : Nat) : Cmd Int := fun s =>
  match cellGet s.res i with
  | some v => .ok v.toInt s
  | none => .faulted .undefEntry

/-- `RES[i] <- v`. -/
def writeRes (i : Nat) (v : Int) : Cmd Unit := Cmd.update (setRes i (wordOfInt v))

/-- SMP[c][i] (R46). -/
def readSmp (c i : Nat) : Cmd Int := fun s =>
  match cellGet s.smp (smpAddress c i) with
  | some v => .ok v.toInt s
  | none => .faulted .undefEntry

/-- `SMP[c][i] <- v`. -/
def writeSmp (c i : Nat) (v : Int) : Cmd Unit := Cmd.update (setSmp c i (wordOfInt v))

end Sys2Proof.Machine
end

