-- ==== Sys2Proof/Machine/Cursor.lean ====
section
/-! DEFINITION. The Bit Cursor commands (41_bitcursor.md): RDB, RDS, RDU, RDR, ALN, GC8, GC16, CRCR. -/

namespace Sys2Proof.Machine

/-- `RESULT <- v`, then OK. -/
def finishWith (v : Word) : Cmd Code := (Cmd.update (setResult v)).andThen (Cmd.pure .ok)

/-- RDB (R150): `RESULT <- zext_64(ReadBits(n))`. -/
def execRdb (n : Byte) (s : State) : Host.Outcome State Fault Refusal :=
  runCommand .plain
    ((operandCheck (n.toNat ≤ 64)).andThen <|
     (readBits n.toNat).bind fun v => finishWith (BitVec.ofNat 64 v)) s

/-- RDS (R151): `RESULT <- ReadSigned(n)` as 64-bit two's complement. -/
def execRds (n : Byte) (s : State) : Host.Outcome State Fault Refusal :=
  runCommand .plain
    ((operandCheck (n.toNat ≤ 64)).andThen <|
     (readSigned n.toNat).bind fun v => finishWith (wordOfInt v)) s

/-- RDU (R152): `RESULT <- zext_64(ReadUnary())`. -/
def execRdu (s : State) : Host.Outcome State Fault Refusal :=
  runCommand .plain (readUnary.bind fun q => finishWith (BitVec.ofNat 64 q)) s

/-- RDR (R153): `RESULT <- ReadRice(k)` as 64-bit two's complement. -/
def execRdr (k : Byte) (s : State) : Host.Outcome State Fault Refusal :=
  runCommand .plain
    ((operandCheck (k.toNat ≤ 30)).andThen <|
     (readRice k.toNat).bind fun v => finishWith (wordOfInt v)) s

/-- ALN (R154): `ByteAlign()`. -/
def execAln (s : State) : Host.Outcome State Fault Refusal :=
  runCommand .plain (byteAlign.andThen (Cmd.pure .ok)) s

/-- GC8 (R155): `RESULT <- zext_64(CRC8)`. -/
def execGc8 (s : State) : Host.Outcome State Fault Refusal :=
  runCommand .plain ((Cmd.read fun t => t.crc8.setWidth 64).bind finishWith) s

/-- GC16 (R156): `RESULT <- zext_64(CRC16)`. -/
def execGc16 (s : State) : Host.Outcome State Fault Refusal :=
  runCommand .plain ((Cmd.read fun t => t.crc16.setWidth 64).bind finishWith) s

/-- CRCR (R157): `CRC8 <- 0; CRC16 <- 0`. -/
def execCrcr (s : State) : Host.Outcome State Fault Refusal :=
  runCommand .plain ((Cmd.update (setCrcs 0 0)).andThen (Cmd.pure .ok)) s

end Sys2Proof.Machine
end

