-- ==== Sys2Proof/Machine/Decorrelator.lean ====
section
/-! DEFINITION. The Channel Decorrelator (45_decorrelator.md): DECOR. -/

namespace Sys2Proof.Machine

/-- The (left, right) pair of an assignment 8, 9 or 10 (R242, R243), exact in ℤ with the floor shift. -/
def decorrelate (a : Nat) (x0 x1 : Int) : Int × Int :=
  if a = 8 then (x0, x0 - x1)
  else if a = 9 then (x1 + x0, x1)
  else (x0 - (x1 >>> (1 : Nat)) + x1, x0 - (x1 >>> (1 : Nat)))

/-- The first loop of R240: the pairs `out0[i], out1[i]` from i on, each checked against the nominal depth (R245). -/
def decorrelatedPairs (a bps : Nat) : (count i : Nat) → Cmd (List (Int × Int))
  | 0, _ => Cmd.pure []
  | n + 1, i =>
    (readSmp 0 i).bind fun x0 =>
    (readSmp 1 i).bind fun x1 =>
    let p := decorrelate a x0 x1
    (Cmd.require (InRange p.1 bps ∧ InRange p.2 bps) .malformedStream).andThen <|
    (decorrelatedPairs a bps n (i + 1)).bind fun rest => Cmd.pure (p :: rest)

/-- The second loop of R240: the pairs are written to SMP[0] and SMP[1] from i on. -/
def writePairs : (pairs : List (Int × Int)) → (i : Nat) → Cmd Unit
  | [], _ => Cmd.pure ()
  | p :: rest, i =>
    (writeSmp 0 i p.1).andThen <|
    (writeSmp 1 i p.2).andThen <|
    writePairs rest (i + 1)

/-- `DECOR(a, bps)` (R240), without its word check. Assignments 0..7 read and write nothing (R241). -/
def decorrelator (a bps : Nat) : Cmd Unit :=
  checkedNblk.bind fun nblk =>
  if a ≤ 7 then Cmd.pure ()
  else (decorrelatedPairs a bps nblk 0).bind fun pairs => writePairs pairs 0

/-- DECOR (R240). -/
def execDecor (a bps : Byte) (s : State) : Host.Outcome State Fault Refusal :=
  runCommand .decorrelator
    ((operandCheck (a.toNat ≤ 10 ∧ 1 ≤ bps.toNat ∧ bps.toNat ≤ 32)).andThen <|
     (decorrelator a.toNat bps.toNat).andThen <|
     Cmd.pure .ok) s

end Sys2Proof.Machine
end

