-- ==== Sys2Proof/WellFormed.lean ====
section
/-! DEFINITION. The operand ranges of 30_encoding.md R102: which instructions the encoding admits. -/

namespace Sys2Proof

/-- Every used field is inside the legal range of R102. A subframe header admits every value of its fields (R130). -/
def Instr.wellFormed : Instr → Bool
  | .rdb n => decide (n.toNat ≤ 64)
  | .rds n => decide (n.toNat ≤ 64)
  | .rdu => true
  | .rdr k => decide (k.toNat ≤ 30)
  | .aln => true
  | .gc8 => true
  | .gc16 => true
  | .crcr => true
  | .fixp order c w => decide (order.toNat ≤ 4 ∧ c.toNat ≤ 7 ∧ 1 ≤ w.toNat ∧ w.toNat ≤ 33)
  | .lpcp order c w => decide (1 ≤ order.toNat ∧ order.toNat ≤ 32 ∧ c.toNat ≤ 7 ∧ 1 ≤ w.toNat ∧ w.toNat ≤ 33)
  | .resd order => decide (order.toNat ≤ 32)
  | .subf c bps => decide (c.toNat ≤ 7 ∧ 1 ≤ bps.toNat ∧ bps.toNat ≤ 33)
  | .decor a bps => decide (a.toNat ≤ 10 ∧ 1 ≤ bps.toNat ∧ bps.toNat ≤ 32)
  | .fhdr => true
  | .fftr => true
  | .frame => true
  | .sfConstant _ => true
  | .sfVerbatim _ => true
  | .sfFixed0 _ => true
  | .sfFixed1 _ => true
  | .sfFixed2 _ => true
  | .sfFixed3 _ => true
  | .sfFixed4 _ => true
  | .sfLpc _ _ => true

end Sys2Proof
end

