-- ==== Sys2Proof/Decode.lean ====
section
/-! DEFINITION. The decoder and the encoder of the two formats of the opcode table: command words (30_encoding.md R100 to
R103) and subframe headers (30_encoding.md R130, 44_subframe.md R221). The check that a used field is inside its range is
the command's own first check (Machine/Operands.lean), so the decoder keeps every value of a used field (log 10). -/

namespace Sys2Proof

/-- Why a word is no instruction. -/
inductive DecodeError where
  /-- CW[7:0] is not an assigned opcode (R103). -/
  | reservedOpcode
  /-- A field the command does not use is not zero (R101). -/
  | unusedField
  /-- The padding bit of a subframe header is 1 (R130). -/
  | paddingBit
  /-- The subframe type code is reserved (R130). -/
  | reservedType
  deriving DecidableEq, Repr

/-- An encoded instruction: a command word, or the byte of a subframe header. -/
inductive Encoding where
  | command (w : CommandWord)
  | subframeHeader (b : Byte)
  deriving DecidableEq, Repr

/-- The 8-bit field of a command word whose lowest bit is bit `lo` (R100). -/
def commandField (w : CommandWord) (lo : Nat) : Byte := w.extractLsb' lo 8

/-- The command with unused fields: accepted when each of them is zero (R101). -/
def whenZero (unused : List Byte) (i : Instr) : Except DecodeError Instr :=
  if unused.all (fun f => f == 0#8) then .ok i else .error .unusedField

/-- The opcode map of R102. -/
def decodeCommand (w : CommandWord) : Except DecodeError Instr :=
  let a := commandField w 8
  let b := commandField w 16
  let c := commandField w 24
  match (commandField w 0).toNat with
  | 0x01 => whenZero [b, c] (.rdb a)
  | 0x02 => whenZero [b, c] (.rds a)
  | 0x03 => whenZero [a, b, c] .rdu
  | 0x04 => whenZero [b, c] (.rdr a)
  | 0x05 => whenZero [a, b, c] .aln
  | 0x06 => whenZero [a, b, c] .gc8
  | 0x07 => whenZero [a, b, c] .gc16
  | 0x08 => whenZero [a, b, c] .crcr
  | 0x10 => .ok (.fixp a b c)
  | 0x11 => .ok (.lpcp a b c)
  | 0x18 => whenZero [b, c] (.resd a)
  | 0x20 => whenZero [c] (.subf a b)
  | 0x28 => whenZero [c] (.decor a b)
  | 0x30 => whenZero [a, b, c] .fhdr
  | 0x31 => whenZero [a, b, c] .fftr
  | 0x32 => whenZero [a, b, c] .frame
  | _ => .error .reservedOpcode

/-- The subframe kind of a 6-bit type code and its header instruction (R130; `Classify` of 44_subframe.md R221). -/
def classifyHeader (t : BitVec 6) (wasted : Bool) : Except DecodeError Instr :=
  if 32 ≤ t.toNat then .ok (.sfLpc (t.setWidth 5) wasted)
  else match t.toNat with
    | 0 => .ok (.sfConstant wasted)
    | 1 => .ok (.sfVerbatim wasted)
    | 8 => .ok (.sfFixed0 wasted)
    | 9 => .ok (.sfFixed1 wasted)
    | 10 => .ok (.sfFixed2 wasted)
    | 11 => .ok (.sfFixed3 wasted)
    | 12 => .ok (.sfFixed4 wasted)
    | _ => .error .reservedType

/-- A subframe header byte, most significant bit first: padding bit, type code, wasted-bits flag (R130). -/
def decodeSubframeHeader (b : Byte) : Except DecodeError Instr :=
  if b.getLsbD 7 then .error .paddingBit
  else classifyHeader (b.extractLsb' 1 6) (b.getLsbD 0)

/-- The decoder: total, rejecting by name. -/
def decode : Encoding → Except DecodeError Instr
  | .command w => decodeCommand w
  | .subframeHeader b => decodeSubframeHeader b

/-- `C << 24 | B << 16 | A << 8 | OP` (30_encoding.md R105). -/
def packCommand (op a b c : Byte) : Encoding :=
  .command (c ++ b ++ a ++ op)

/-- A subframe header with padding bit 0 (R130). -/
def packSubframeHeader (t : BitVec 6) (wasted : Bool) : Encoding :=
  .subframeHeader (0#1 ++ t ++ BitVec.ofBool wasted)

/-- The encoding tables of R102 and R130. -/
def encode : Instr → Encoding
  | .rdb n => packCommand 0x01 n 0 0
  | .rds n => packCommand 0x02 n 0 0
  | .rdu => packCommand 0x03 0 0 0
  | .rdr k => packCommand 0x04 k 0 0
  | .aln => packCommand 0x05 0 0 0
  | .gc8 => packCommand 0x06 0 0 0
  | .gc16 => packCommand 0x07 0 0 0
  | .crcr => packCommand 0x08 0 0 0
  | .fixp order c w => packCommand 0x10 order c w
  | .lpcp order c w => packCommand 0x11 order c w
  | .resd order => packCommand 0x18 order 0 0
  | .subf c bps => packCommand 0x20 c bps 0
  | .decor a bps => packCommand 0x28 a bps 0
  | .fhdr => packCommand 0x30 0 0 0
  | .fftr => packCommand 0x31 0 0 0
  | .frame => packCommand 0x32 0 0 0
  | .sfConstant f => packSubframeHeader 0 f
  | .sfVerbatim f => packSubframeHeader 1 f
  | .sfFixed0 f => packSubframeHeader 8 f
  | .sfFixed1 f => packSubframeHeader 9 f
  | .sfFixed2 f => packSubframeHeader 10 f
  | .sfFixed3 f => packSubframeHeader 11 f
  | .sfFixed4 f => packSubframeHeader 12 f
  | .sfLpc o f => packSubframeHeader (1#1 ++ o) f

/-- The instruction whose bits are `w`, numbered as the opcode table numbers them. A row of 8 bits is a subframe
header, every other row a command word, its bits above `nbits` zero (log 11). -/
def decodeTableWord (nbits w : Nat) : Option Instr :=
  if nbits = 8 then (decode (.subframeHeader (BitVec.ofNat 8 w))).toOption
  else if w < 2 ^ 32 then (decode (.command (BitVec.ofNat 32 w))).toOption
  else none

/-- The assembler's line of a command: its mnemonic and its used operands in the order A, B, C (30_encoding.md R105).
A subframe header is no command and has no assembler line. -/
def assemblerLine : Instr → Option String
  | .rdb n => some ("RDB " ++ toString n.toNat)
  | .rds n => some ("RDS " ++ toString n.toNat)
  | .rdu => some "RDU"
  | .rdr k => some ("RDR " ++ toString k.toNat)
  | .aln => some "ALN"
  | .gc8 => some "GC8"
  | .gc16 => some "GC16"
  | .crcr => some "CRCR"
  | .fixp o c w => some ("FIXP " ++ toString o.toNat ++ ", " ++ toString c.toNat ++ ", " ++ toString w.toNat)
  | .lpcp o c w => some ("LPCP " ++ toString o.toNat ++ ", " ++ toString c.toNat ++ ", " ++ toString w.toNat)
  | .resd o => some ("RESD " ++ toString o.toNat)
  | .subf c b => some ("SUBF " ++ toString c.toNat ++ ", " ++ toString b.toNat)
  | .decor a b => some ("DECOR " ++ toString a.toNat ++ ", " ++ toString b.toNat)
  | .fhdr => some "FHDR"
  | .fftr => some "FFTR"
  | .frame => some "FRAME"
  | .sfConstant _ => none
  | .sfVerbatim _ => none
  | .sfFixed0 _ => none
  | .sfFixed1 _ => none
  | .sfFixed2 _ => none
  | .sfFixed3 _ => none
  | .sfFixed4 _ => none
  | .sfLpc _ _ => none

/-- The pseudo-command `SKIP n` of 30_encoding.md R106. -/
def pseudoSkip (n : Nat) : List Instr :=
  List.replicate (n / 64) (.rdb 64) ++ if n % 64 = 0 then [] else [.rdb (BitVec.ofNat 8 (n % 64))]

/-- The pseudo-command `RDBIT` of R106. -/
def pseudoReadBit : List Instr := [.rdb 1]

/-- The pseudo-command `CRCS` of R106. -/
def pseudoCrcs : List Instr := [.gc8, .gc16]

end Sys2Proof
end

