-- ==== Sys2Proof/Machine/Predictor.lean ====
section
/-! DEFINITION. The Predictor Engine (42_predictor.md): FIXP and LPCP, and the reconstruction loops SUBF calls. -/

namespace Sys2Proof.Machine

/-- The binomial coefficients of R181: coefficient j weights the sample j + 1 places back. -/
def fixedCoefficient : (order j : Nat) → Int
  | 1, 0 => 1
  | 2, 0 => 2
  | 2, 1 => -1
  | 3, 0 => 3
  | 3, 1 => -3
  | 3, 2 => 1
  | 4, 0 => 4
  | 4, 1 => -6
  | 4, 2 => 4
  | 4, 3 => -1
  | _, _ => 0

/-- `acc + Σ coefficient(j) × SMP[c][i - 1 - j]` over the next `count` values of j, exact in ℤ (R181, R183, R184). -/
def weightedHistory (coefficient : Nat → Cmd Int) (c i : Nat) : (count j : Nat) → (acc : Int) → Cmd Int
  | 0, _, acc => Cmd.pure acc
  | n + 1, j, acc =>
    (coefficient j).bind fun q =>
    (readSmp c (i - 1 - j)).bind fun x =>
    weightedHistory coefficient c i n (j + 1) (acc + q * x)

/-- `FixedPred(order, c, i)` (R181). -/
def fixedPrediction (order c i : Nat) : Cmd Int :=
  weightedHistory (fun j => Cmd.pure (fixedCoefficient order j)) c i order 0 0

/-- `(Σ QLP[j] × SMP[c][i - 1 - j]) >> shift` with the floor shift (R182, R185). -/
def lpcPrediction (order shift c i : Nat) : Cmd Int :=
  (weightedHistory readQlp c i order 0 0).bind fun acc => Cmd.pure (acc >>> shift)

/-- The loop of R180 and R182: each sample is its residual plus its prediction and must fit w (R186). -/
def reconstruct (prediction : Nat → Cmd Int) (order nblk c w : Nat) : Cmd Unit :=
  Cmd.forRange (fun i =>
    (readRes (i - order)).bind fun r =>
    (prediction i).bind fun p =>
    (Cmd.require (InRange (r + p) w) .malformedStream).andThen <|
    writeSmp c i (r + p)) (nblk - order) order

/-- `FixedRecon` (44_subframe.md R226): the loop of FIXP. -/
def fixedRecon (order nblk c w : Nat) : Cmd Unit :=
  reconstruct (fixedPrediction order c) order nblk c w

/-- `LpcRecon` (44_subframe.md R227): the loop of LPCP. -/
def lpcRecon (order shift nblk c w : Nat) : Cmd Unit :=
  reconstruct (lpcPrediction order shift c) order nblk c w

/-- The checks FIXP and LPCP make before any write (R180, R182, R188); the value is NBLK. -/
def predictorChecks (order c w : Nat) : Cmd Nat :=
  checkedNblk.bind fun nblk =>
  (Cmd.require (order ≤ nblk) .illegalCommand).andThen <|
  (Cmd.forRange (fun j => (readSmp c j).bind fun v =>
    Cmd.require (InRange v w) .illegalCommand) order 0).andThen <|
  Cmd.pure nblk

/-- FIXP (R180). -/
def execFixp (order c w : Byte) (s : State) : Host.Outcome State Fault Refusal :=
  runCommand (.predictor c.toNat order.toNat)
    ((operandCheck (order.toNat ≤ 4 ∧ c.toNat ≤ 7 ∧ 1 ≤ w.toNat ∧ w.toNat ≤ 33)).andThen <|
     (predictorChecks order.toNat c.toNat w.toNat).bind fun nblk =>
     (fixedRecon order.toNat nblk c.toNat w.toNat).andThen <|
     Cmd.pure .ok) s

/-- LPCP (R182). A negative shift is MalformedStream before any sample is computed (R185). -/
def execLpcp (order c w : Byte) (s : State) : Host.Outcome State Fault Refusal :=
  runCommand (.predictor c.toNat order.toNat)
    ((operandCheck (1 ≤ order.toNat ∧ order.toNat ≤ 32 ∧ c.toNat ≤ 7 ∧ 1 ≤ w.toNat ∧ w.toNat ≤ 33)).andThen <|
     (predictorChecks order.toNat c.toNat w.toNat).bind fun nblk =>
     readShift.bind fun shift =>
     (Cmd.require (0 ≤ shift) .malformedStream).andThen <|
     (lpcRecon order.toNat shift.toNat nblk c.toNat w.toNat).andThen <|
     Cmd.pure .ok) s

end Sys2Proof.Machine
end

