-- ==== Sys2Proof/Machine/Residual.lean ====
section
/-! DEFINITION. The Residual Decoder (43_residual.md): RESD, and the residual section SUBF reads. -/

namespace Sys2Proof.Machine

/-- One partition of `count` residuals into RES from `idx` on: its parameter, then Rice codes or, after the escape
sentinel, a 5-bit width and raw signed fields (R200, R203, R207). -/
def readPartition (pbits esc count idx : Nat) : Cmd Unit :=
  (readBits pbits).bind fun k =>
  if k = esc then
    (readBits 5).bind fun w =>
    Cmd.forRange (fun i => (readSigned w).bind fun v => writeRes i v) count idx
  else
    Cmd.forRange (fun i => (readRice k).bind fun v => writeRes i v) count idx

/-- `parts` partitions from partition p on, of psize samples each, the first shorter by the order (R204). -/
def readPartitions (pbits esc psize order : Nat) : (parts p idx : Nat) → Cmd Unit
  | 0, _, _ => Cmd.pure ()
  | n + 1, p, idx =>
    let count := psize - (if p = 0 then order else 0)
    (readPartition pbits esc count idx).andThen <|
    readPartitions pbits esc psize order n (p + 1) (idx + count)

/-- `RESD(order)` (R200), without its word check. -/
def residualSection (order : Nat) : Cmd Unit :=
  checkedNblk.bind fun nblk =>
  (readBits 2).bind fun method =>
  (Cmd.require (method < 2) .malformedStream).andThen <|
  let pbits := if method = 0 then 4 else 5
  (readBits 4).bind fun porder =>
  (Cmd.require (nblk % 2 ^ porder = 0) .malformedStream).andThen <|
  let psize := nblk / 2 ^ porder
  (Cmd.require (order ≤ psize) .malformedStream).andThen <|
  readPartitions pbits (2 ^ pbits - 1) psize order (2 ^ porder) 0 0

/-- RESD (R200). -/
def execResd (order : Byte) (s : State) : Host.Outcome State Fault Refusal :=
  runCommand (.residual order.toNat)
    ((operandCheck (order.toNat ≤ 32)).andThen <|
     (residualSection order.toNat).andThen <|
     Cmd.pure .ok) s

end Sys2Proof.Machine
end

