-- ==== Sys2Proof/Machine/Subframe.lean ====
section
/-! DEFINITION. The Subframe Decoder (44_subframe.md): SUBF, and the eight subframe headers it dispatches on. -/

namespace Sys2Proof.Machine

/-- `for i in 0 .. count - 1: SMP[c][i] <- ReadSigned(ebps)`. -/
def readSamples (c ebps count : Nat) : Cmd Unit :=
  Cmd.forRange (fun i => (readSigned ebps).bind fun v => writeSmp c i v) count 0

/-- The Constant body (R228). -/
def constantBody (c ebps nblk : Nat) : Cmd Unit :=
  (readSigned ebps).bind fun v => Cmd.forRange (fun i => writeSmp c i v) nblk 0

/-- The Verbatim body (R230). -/
def verbatimBody (c ebps nblk : Nat) : Cmd Unit := readSamples c ebps nblk

/-- The Fixed body (R226). -/
def fixedBody (order c ebps nblk : Nat) : Cmd Unit :=
  (readSamples c ebps order).andThen <|
  (residualSection order).andThen <|
  fixedRecon order nblk c ebps

/-- The LPC body (R227). -/
def lpcBody (order c ebps nblk : Nat) : Cmd Unit :=
  (readSamples c ebps order).andThen <|
  (readBits 4).bind fun p =>
  (Cmd.require (p ≠ 15) .malformedStream).andThen <|
  (Cmd.update (setPrec (p + 1))).andThen <|
  (readSigned 5).bind fun sh =>
  (Cmd.update (setShift (BitVec.ofInt 5 sh))).andThen <|
  (Cmd.require (0 ≤ sh) .malformedStream).andThen <|
  (Cmd.forRange (fun j => (readSigned (p + 1)).bind fun v =>
    Cmd.update (setQlp j (BitVec.ofInt 16 v))) order 0).andThen <|
  (residualSection order).andThen <|
  lpcRecon order sh.toNat nblk c ebps

/-- The wasted-bits count (R222, 30_encoding.md R131): the flag, and if set a unary code plus 1. -/
def readWasted (flag : Bool) : Cmd Nat :=
  if flag then readUnary.bind fun q => Cmd.pure (q + 1) else Cmd.pure 0

/-- `for i in 0 .. NBLK - 1: SMP[c][i] <- SMP[c][i] << wasted` (R222). -/
def shiftSamples (c wasted nblk : Nat) : Cmd Unit :=
  Cmd.forRange (fun i => (readSmp c i).bind fun v => writeSmp c i (v * 2 ^ wasted)) nblk 0

/-- SUBF after its header (R220): wasted bits, the checks that need them, the SF registers, the body, the shift.
`body ebps` is the body of the subframe's kind. -/
def subframeRest (c bps nblk t order : Nat) (flag : Bool) (body : Nat → Cmd Unit) : Cmd Unit :=
  (readWasted flag).bind fun wasted =>
  (Cmd.require (wasted < bps) .malformedStream).andThen <|
  (Cmd.require (order ≤ nblk) .malformedStream).andThen <|
  (Cmd.update (setSubframeHeader t order wasted)).andThen <|
  (body (bps - wasted)).andThen <|
  if 0 < wasted then shiftSamples c wasted nblk else Cmd.pure ()

/-- The checks SUBF makes before it reads a bit (R220, R224); the value is NBLK. -/
def subframeChecks (bps : Nat) : Cmd Nat :=
  checkedNblk.bind fun nblk =>
  (Cmd.read fun s => s.cfg.maxSubframeBps).bind fun most =>
  (Cmd.require (bps ≤ most) .unsupportedStream).andThen <|
  Cmd.pure nblk

/-- The order check of an LPC header, made when the type code is read (R224). -/
def lpcOrderCheck (order : Nat) : Cmd Unit :=
  (Cmd.read fun s => s.cfg.maxLpcOrder).bind fun most => Cmd.require (order ≤ most) .unsupportedStream

/-- What `Classify(t)` finds in a legal type code (R221): the check made when the code is read, the predictor's order,
and the body. -/
structure SubframeKind where
  check : Cmd Unit
  order : Nat
  body : (c ebps nblk : Nat) → Cmd Unit

/-- Constant (R228). -/
def constantKind : SubframeKind := ⟨Cmd.pure (), 0, constantBody⟩

/-- Verbatim (R230). -/
def verbatimKind : SubframeKind := ⟨Cmd.pure (), 0, verbatimBody⟩

/-- Fixed of an order 0..4 (R226). -/
def fixedKind (order : Nat) : SubframeKind := ⟨Cmd.pure (), order, fixedBody order⟩

/-- LPC of an order 1..32 (R227). -/
def lpcKind (order : Nat) : SubframeKind := ⟨lpcOrderCheck order, order, lpcBody order⟩

/-- `Classify(t)` (R221); none for a reserved type code. -/
def classify (t : Nat) : Option SubframeKind :=
  if t = 0 then some constantKind
  else if t = 1 then some verbatimKind
  else if 8 ≤ t ∧ t ≤ 12 then some (fixedKind (t - 8))
  else if 32 ≤ t then some (lpcKind (t - 31))
  else none

/-- `SUBF(c, bps)` (R220), without its word check. -/
def subframe (c bps : Nat) : Cmd Unit :=
  (subframeChecks bps).bind fun nblk =>
  (readBits 1).bind fun pad =>
  (Cmd.require (pad = 0) .malformedStream).andThen <|
  (readBits 6).bind fun t =>
  match classify t with
  | none => Cmd.raise .malformedStream
  | some k =>
    k.check.andThen <|
    (readBits 1).bind fun flag =>
    subframeRest c bps nblk t k.order (flag = 1) (fun ebps => k.body c ebps nblk)

/-- SUBF with the word check of R102. -/
def subframeCommand (c bps : Nat) (body : Cmd Unit) : Cmd Code :=
  (operandCheck (c ≤ 7 ∧ 1 ≤ bps ∧ bps ≤ 33)).andThen (body.andThen (Cmd.pure .ok))

/-- SUBF (R220). -/
def execSubf (c bps : Byte) (s : State) : Host.Outcome State Fault Refusal :=
  runCommand (.subframe c.toNat) (subframeCommand c.toNat bps.toNat (subframe c.toNat bps.toNat)) s

/-! The subframe headers. A header stands at the cursor of a SUBF whose operands `State.sub` holds; running it is that
SUBF, its header known (log 1). -/

/-- SUBF at a header whose type code is t, of kind k, with this wasted-bits flag: the header's 8 bits are consumed. -/
def subframeWithHeader (c bps t : Nat) (k : SubframeKind) (flag : Bool) : Cmd Unit :=
  (subframeChecks bps).bind fun nblk =>
  (readBits 1).andThen <|
  (readBits 6).andThen <|
  k.check.andThen <|
  (readBits 1).andThen <|
  subframeRest c bps nblk t k.order flag (fun ebps => k.body c ebps nblk)

/-- Run a subframe header: the SUBF that waits for one ends with it. Where none waits, the header has no effect of its
own and is refused by name (log 1). -/
def runHeader (t : Nat) (k : SubframeKind) (flag : Bool) (s : State) : Host.Outcome State Fault Refusal :=
  match s.sub with
  | none => .refused .noSubframe
  | some o =>
    runCommand (.subframe o.channel.toNat)
      (subframeCommand o.channel.toNat o.bps.toNat
        (subframeWithHeader o.channel.toNat o.bps.toNat t k flag)) { s with sub := none }

/-- Subframe header of kind Constant (R228), type code 0. -/
def execSfConstant (flag : Bool) (s : State) : Host.Outcome State Fault Refusal := runHeader 0 constantKind flag s

/-- Subframe header of kind Verbatim (R230), type code 1. -/
def execSfVerbatim (flag : Bool) (s : State) : Host.Outcome State Fault Refusal := runHeader 1 verbatimKind flag s

/-- Subframe header of kind Fixed, order 0 (R226), type code 8. -/
def execSfFixed0 (flag : Bool) (s : State) : Host.Outcome State Fault Refusal := runHeader 8 (fixedKind 0) flag s

/-- Subframe header of kind Fixed, order 1 (R226), type code 9. -/
def execSfFixed1 (flag : Bool) (s : State) : Host.Outcome State Fault Refusal := runHeader 9 (fixedKind 1) flag s

/-- Subframe header of kind Fixed, order 2 (R226), type code 10. -/
def execSfFixed2 (flag : Bool) (s : State) : Host.Outcome State Fault Refusal := runHeader 10 (fixedKind 2) flag s

/-- Subframe header of kind Fixed, order 3 (R226), type code 11. -/
def execSfFixed3 (flag : Bool) (s : State) : Host.Outcome State Fault Refusal := runHeader 11 (fixedKind 3) flag s

/-- Subframe header of kind Fixed, order 4 (R226), type code 12. -/
def execSfFixed4 (flag : Bool) (s : State) : Host.Outcome State Fault Refusal := runHeader 12 (fixedKind 4) flag s

/-- Subframe header of kind LPC (R227), type code `32 + orderMinus1`, order `orderMinus1 + 1`. -/
def execSfLpc (orderMinus1 : BitVec 5) (flag : Bool) (s : State) : Host.Outcome State Fault Refusal :=
  runHeader (32 + orderMinus1.toNat) (lpcKind (orderMinus1.toNat + 1)) flag s

end Sys2Proof.Machine
end

