-- ==== Sys2Proof/Machine/Frame.lean ====
section
/-! DEFINITION. The Frame Decoder (46_frame.md): FHDR, FFTR and FRAME. -/

namespace Sys2Proof.Machine

/-- `n` extra bytes of the number, appended to acc: each must be `10xxxxxx` (30_encoding.md R127). -/
def readNumberTail : (n acc : Nat) → Cmd Nat
  | 0, acc => Cmd.pure acc
  | n + 1, acc =>
    (readBits 8).bind fun e =>
    (Cmd.require (0x80 ≤ e ∧ e < 0xC0) .malformedStream).andThen <|
    readNumberTail n (acc * 64 + (e - 0x80))

/-- `ReadUtf8Number()` (R266, the table of 30_encoding.md R127). -/
def readNumber : Cmd Nat :=
  (readBits 8).bind fun b =>
  if b < 0x80 then Cmd.pure b
  else if b < 0xC0 then Cmd.raise .malformedStream
  else if b < 0xE0 then readNumberTail 1 (b - 0xC0)
  else if b < 0xF0 then readNumberTail 2 (b - 0xE0)
  else if b < 0xF8 then readNumberTail 3 (b - 0xF0)
  else if b < 0xFC then readNumberTail 4 (b - 0xF8)
  else if b < 0xFE then readNumberTail 5 (b - 0xFC)
  else if b = 0xFE then readNumberTail 6 0
  else Cmd.raise .malformedStream

/-- `BlockSize(code)` (30_encoding.md R122): codes 6 and 7 read an extension; 65536 is MalformedStream (R263). -/
def blockSize (code : Nat) : Cmd Nat :=
  if code = 1 then Cmd.pure 192
  else if code ≤ 5 then Cmd.pure (576 * 2 ^ (code - 2))
  else if code = 6 then (readBits 8).bind fun e => Cmd.pure (e + 1)
  else if code = 7 then
    (readBits 16).bind fun e =>
    (Cmd.require (e + 1 ≤ 65535) .malformedStream).andThen <|
    Cmd.pure (e + 1)
  else Cmd.pure (256 * 2 ^ (code - 8))

/-- SI_RATE, as a command reads it. -/
def readSiRate : Cmd Nat := (useRegister 0x10).andThen (Cmd.read fun s => s.si.rate.toNat)

/-- SI_CHANNELS, as a command reads it. -/
def readSiChannels : Cmd Nat := (useRegister 0x11).andThen (Cmd.read fun s => s.si.channels.toNat)

/-- SI_BPS, as a command reads it. -/
def readSiBps : Cmd Nat := (useRegister 0x12).andThen (Cmd.read fun s => s.si.bps.toNat)

/-- SI_MAXBLK, as a command reads it. -/
def readSiMaxBlock : Cmd Nat := (useRegister 0x15).andThen (Cmd.read fun s => s.si.maxBlock.toNat)

/-- `SampleRate(code)` (30_encoding.md R123): codes 12, 13 and 14 read an extension. -/
def sampleRate (code : Nat) : Cmd Nat :=
  match code with
  | 0 => readSiRate
  | 1 => Cmd.pure 88200
  | 2 => Cmd.pure 176400
  | 3 => Cmd.pure 192000
  | 4 => Cmd.pure 8000
  | 5 => Cmd.pure 16000
  | 6 => Cmd.pure 22050
  | 7 => Cmd.pure 24000
  | 8 => Cmd.pure 32000
  | 9 => Cmd.pure 44100
  | 10 => Cmd.pure 48000
  | 11 => Cmd.pure 96000
  | 12 => (readBits 8).bind fun e => Cmd.pure (e * 1000)
  | 13 => readBits 16
  | 14 => (readBits 16).bind fun e => Cmd.pure (e * 10)
  | _ => Cmd.raise .malformedStream

/-- `Channels(code)` (30_encoding.md R125, R262). -/
def channelsOf (code : Nat) : Nat := if code ≤ 7 then code + 1 else 2

/-- `SampleSize(code)` (30_encoding.md R126). -/
def sampleSize (code : Nat) : Cmd Nat :=
  match code with
  | 0 => readSiBps
  | 1 => Cmd.pure 8
  | 2 => Cmd.pure 12
  | 4 => Cmd.pure 16
  | 5 => Cmd.pure 20
  | 6 => Cmd.pure 24
  | _ => Cmd.raise .malformedStream

/-- `FHDR()` (R260), every check in stream order. -/
def frameHeader : Cmd Unit :=
  (Cmd.read fun s => s.siValid).bind fun siValid =>
  (Cmd.require (siValid = true) .illegalCommand).andThen <|
  (Cmd.read fun s => s.pos.toNat % 8).bind fun offset =>
  (Cmd.require (offset = 0) .malformedStream).andThen <|
  (Cmd.update (setCrcs 0 0)).andThen <|
  (readBits 14).bind fun sync =>
  (Cmd.read fun s => s.scan).bind fun scan =>
  (Cmd.require (sync = 0x3FFE) (if scan then .resync else .malformedStream)).andThen <|
  (readBits 1).bind fun reserved0 =>
  (Cmd.require (reserved0 = 0) .malformedStream).andThen <|
  (readBits 1).bind fun blocking =>
  (readBits 4).bind fun bsc =>
  (Cmd.require (bsc ≠ 0) .malformedStream).andThen <|
  (readBits 4).bind fun src =>
  (Cmd.require (src ≠ 15) .malformedStream).andThen <|
  (readBits 4).bind fun chc =>
  (Cmd.require (chc < 11) .malformedStream).andThen <|
  (readBits 3).bind fun ssc =>
  (Cmd.require (ssc ≠ 3 ∧ ssc ≠ 7) .malformedStream).andThen <|
  (readBits 1).bind fun reserved1 =>
  (Cmd.require (reserved1 = 0) .malformedStream).andThen <|
  readNumber.bind fun number =>
  (blockSize bsc).bind fun nblk =>
  (sampleRate src).bind fun rate =>
  (Cmd.read fun s => s.crc8.toNat).bind fun expect =>
  (readBits 8).bind fun got =>
  (Cmd.require (got = expect) .malformedStream).andThen <|
  (sampleSize ssc).bind fun bps =>
  readSiChannels.bind fun siChannels =>
  readSiBps.bind fun siBps =>
  (Cmd.require (channelsOf chc = siChannels ∧ bps = siBps) .malformedStream).andThen <|
  readSiMaxBlock.bind fun most =>
  (Cmd.require (most = 0 ∨ nblk ≤ most) .malformedStream).andThen <|
  (Cmd.read fun s => s.cfg.maxBps).bind fun maxBps =>
  (Cmd.require (bps ≤ maxBps) .unsupportedStream).andThen <|
  (Cmd.update fun s => if s.cfg.crc16FromSync then s else setCrcs s.crc8 0 s).andThen <|
  Cmd.update <| setFrameHeader
    { blocking := BitVec.ofNat 1 blocking
      blockSize := BitVec.ofNat 17 nblk
      rate := BitVec.ofNat 20 rate
      chAssign := BitVec.ofNat 4 chc
      channels := BitVec.ofNat 4 (channelsOf chc)
      bps := BitVec.ofNat 6 bps
      number := BitVec.ofNat 36 number
      crc8 := BitVec.ofNat 8 got }

/-- `FFTR()` (R270): the code is OK or the non-fatal IntegrityError. -/
def frameFooter : Cmd Code :=
  byteAlign.andThen <|
  (Cmd.read fun s => s.crc16.toNat).bind fun expect =>
  (readBits 16).bind fun got =>
  if got = expect then (Cmd.update (setValid true)).andThen (Cmd.pure .ok)
  else (Cmd.update (setValid false)).andThen (Cmd.pure .integrityError)

/-- `Side(a, c)` (R281): 1 when channel c is the side channel of assignment a (45_decorrelator.md R246). -/
def sideBit (a c : Nat) : Nat :=
  if (a = 8 ∧ c = 1) ∨ (a = 10 ∧ c = 1) ∨ (a = 9 ∧ c = 0) then 1 else 0

/-- `FRAME()` (R280): the header, one subframe per channel in channel order, the footer, the decorrelation. -/
def frameBody : Cmd Code :=
  frameHeader.andThen <|
  (Cmd.read fun s => s.fh).bind fun h =>
  (Cmd.forRange (fun c => subframe c (h.bps.toNat + sideBit h.chAssign.toNat c)) h.channels.toNat 0).andThen <|
  frameFooter.bind fun st =>
  (decorrelator h.chAssign.toNat h.bps.toNat).andThen <|
  Cmd.pure st

/-- FHDR (R260). -/
def execFhdr (s : State) : Host.Outcome State Fault Refusal :=
  runCommand .plain (frameHeader.andThen (Cmd.pure .ok)) s

/-- FFTR (R270). -/
def execFftr (s : State) : Host.Outcome State Fault Refusal := runCommand .footer frameFooter s

/-- FRAME (R280). -/
def execFrame (s : State) : Host.Outcome State Fault Refusal := runCommand .frame frameBody s

end Sys2Proof.Machine
end

