-- ==== Sys2Proof/Machine/Dispatch.lean ====
section
/-! DEFINITION. exec: one arm per instruction, each one call of its meaning. -/

namespace Sys2Proof.Machine

/-- Run one instruction. -/
def exec (i : Instr) (s : State) : Host.Outcome State Fault Refusal :=
  match i with
  | .rdb n => Sys2Proof.Machine.execRdb n s
  | .rds n => Sys2Proof.Machine.execRds n s
  | .rdu => Sys2Proof.Machine.execRdu s
  | .rdr k => Sys2Proof.Machine.execRdr k s
  | .aln => Sys2Proof.Machine.execAln s
  | .gc8 => Sys2Proof.Machine.execGc8 s
  | .gc16 => Sys2Proof.Machine.execGc16 s
  | .crcr => Sys2Proof.Machine.execCrcr s
  | .fixp order c w => Sys2Proof.Machine.execFixp order c w s
  | .lpcp order c w => Sys2Proof.Machine.execLpcp order c w s
  | .resd order => Sys2Proof.Machine.execResd order s
  | .subf c bps => Sys2Proof.Machine.execSubf c bps s
  | .decor a bps => Sys2Proof.Machine.execDecor a bps s
  | .fhdr => Sys2Proof.Machine.execFhdr s
  | .fftr => Sys2Proof.Machine.execFftr s
  | .frame => Sys2Proof.Machine.execFrame s
  | .sfConstant wasted => Sys2Proof.Machine.execSfConstant wasted s
  | .sfVerbatim wasted => Sys2Proof.Machine.execSfVerbatim wasted s
  | .sfFixed0 wasted => Sys2Proof.Machine.execSfFixed0 wasted s
  | .sfFixed1 wasted => Sys2Proof.Machine.execSfFixed1 wasted s
  | .sfFixed2 wasted => Sys2Proof.Machine.execSfFixed2 wasted s
  | .sfFixed3 wasted => Sys2Proof.Machine.execSfFixed3 wasted s
  | .sfFixed4 wasted => Sys2Proof.Machine.execSfFixed4 wasted s
  | .sfLpc orderMinus1 wasted => Sys2Proof.Machine.execSfLpc orderMinus1 wasted s

end Sys2Proof.Machine
end

