-- ==== Sys2Proof/Machine/HostPort.lean ====
section
/-! DEFINITION. The host's side of the core: the register map (10_state.md R51), the buffers as the host reaches them
(20_memory.md R75 to R77), and every access of 20_memory.md R85 but the issue of a command (Machine/Fetch.lean). -/

namespace Sys2Proof.Machine

/-- Reading a register of `n` bits zero-extended, or sign-extended (R51). -/
def zeroExtend {w : Nat} (v : BitVec w) : Word := v.setWidth 64

/-- SF_SHIFT and QLP are read sign-extended (R51). -/
def signExtend {w : Nat} (v : BitVec w) : Word := v.signExtend 64

/-- POS as the host reads it (R31): the position where 64 bits hold it, else a free value (log 7). -/
def positionWord (s : State) : Word := if s.pos.toNat < 2 ^ 64 then s.pos.setWidth 64 else Config.endPosition

/-- The bits register number n holds, as the host reads them (R51); a number not in the map reads 0. -/
def registerBits (s : State) (n : Nat) : Word :=
  match n with
  | 0x01 => statusWord s
  | 0x02 => s.result
  | 0x03 => ctrlWord s
  | 0x04 => positionWord s
  | 0x06 => s.len
  | 0x07 => crcWord s
  | 0x10 => zeroExtend s.si.rate
  | 0x11 => zeroExtend s.si.channels
  | 0x12 => zeroExtend s.si.bps
  | 0x13 => zeroExtend s.si.total
  | 0x14 => zeroExtend s.si.minBlock
  | 0x15 => zeroExtend s.si.maxBlock
  | 0x16 => zeroExtend s.si.minFrame
  | 0x17 => zeroExtend s.si.maxFrame
  | 0x18 => if s.siValid then 1 else 0
  | 0x20 => zeroExtend s.fh.blocking
  | 0x21 => zeroExtend s.fh.blockSize
  | 0x22 => zeroExtend s.fh.rate
  | 0x23 => zeroExtend s.fh.chAssign
  | 0x24 => zeroExtend s.fh.channels
  | 0x25 => zeroExtend s.fh.bps
  | 0x26 => zeroExtend s.fh.number
  | 0x27 => zeroExtend s.fh.crc8
  | 0x30 => zeroExtend s.sf.type
  | 0x31 => zeroExtend s.sf.order
  | 0x32 => zeroExtend s.sf.wasted
  | 0x33 => zeroExtend s.sf.prec
  | 0x34 => signExtend s.sf.shift
  | n => if 0x40 ≤ n ∧ n ≤ 0x5F then signExtend (s.qlp[n - 0x40]?.getD 0) else 0

/-- A host read of register number n (R51): UNDEF where it is marked so. A read has no side effect (R79). -/
def registerRead (s : State) (n : Nat) : Option Word :=
  if s.undef.getLsbD n then none else some (registerBits s n)

/-- SI_VALID may become 1: every register 0x10..0x17 has been written, and the channel count and the depth are in
their legal ranges (R40). -/
def streamInfoComplete (s : State) : Bool :=
  decide (s.undef &&& markRange 0x10 8 = 0) &&
  decide (1 ≤ s.si.channels.toNat ∧ s.si.channels.toNat ≤ 8) &&
  decide (4 ≤ s.si.bps.toNat ∧ s.si.bps.toNat ≤ 32)

/-- A host write to SI_VALID (R40). STATUS.CODE is OK unless a 1 is refused (R344; DEDUCED, log 8). -/
def writeSiValid (v : Word) (s : State) : State :=
  if v.getLsbD 0 then
    if streamInfoComplete s then setCode .ok { s with siValid := true }
    else setCode .illegalCommand { s with siValid := false }
  else setCode .ok { s with siValid := false }

/-- A host write of LEN: refused above P_BUF_MAX or below POS div 8 rounded up (R32, R85). -/
def writeLen (v : Word) (s : State) : State :=
  if v.toNat ≤ s.cfg.bufMax ∧ (s.pos.toNat + 7) / 8 ≤ v.toNat then setCode .ok { s with len := v }
  else setCode .illegalCommand s

/-- A host write of SEEK: refused above LEN (R39). -/
def writeSeek (off : Word) (s : State) : State :=
  if off.toNat ≤ s.len.toNat then setCode .ok (setCrcs 0 0 (setPos (8 * off.toNat) s))
  else setCode .illegalCommand s

/-- A host write to a StreamInfo register: SI_VALID becomes 0 and the register is marked written (R40, R48). -/
def writeStreamInfo (n : Nat) (f : StreamInfo → StreamInfo) (s : State) : State :=
  { s with si := f s.si, siValid := false, undef := clearMark n s.undef }

/-- A host write to a frame header register (R41). -/
def writeFrameHeader (n : Nat) (f : FrameHeader → FrameHeader) (s : State) : State :=
  { s with fh := f s.fh, undef := clearMark n s.undef }

/-- A host write of the value v to register number n, other than CMD (R51): the low bits are stored; a register that
is read-only and a number not in the map ignore it. -/
def registerWrite (n : Nat) (v : Word) (s : State) : State :=
  match n with
  | 0x01 => writeStatus v s
  | 0x03 => writeCtrl v s
  | 0x05 => writeSeek v s
  | 0x06 => writeLen v s
  | 0x10 => writeStreamInfo 0x10 (fun r => { r with rate := v.setWidth 20 }) s
  | 0x11 => writeStreamInfo 0x11 (fun r => { r with channels := v.setWidth 4 }) s
  | 0x12 => writeStreamInfo 0x12 (fun r => { r with bps := v.setWidth 6 }) s
  | 0x13 => writeStreamInfo 0x13 (fun r => { r with total := v.setWidth 36 }) s
  | 0x14 => writeStreamInfo 0x14 (fun r => { r with minBlock := v.setWidth 16 }) s
  | 0x15 => writeStreamInfo 0x15 (fun r => { r with maxBlock := v.setWidth 16 }) s
  | 0x16 => writeStreamInfo 0x16 (fun r => { r with minFrame := v.setWidth 24 }) s
  | 0x17 => writeStreamInfo 0x17 (fun r => { r with maxFrame := v.setWidth 24 }) s
  | 0x18 => writeSiValid v s
  | 0x20 => writeFrameHeader 0x20 (fun r => { r with blocking := v.setWidth 1 }) s
  | 0x21 => writeFrameHeader 0x21 (fun r => { r with blockSize := v.setWidth 17 }) s
  | 0x22 => writeFrameHeader 0x22 (fun r => { r with rate := v.setWidth 20 }) s
  | 0x23 => writeFrameHeader 0x23 (fun r => { r with chAssign := v.setWidth 4 }) s
  | 0x24 => writeFrameHeader 0x24 (fun r => { r with channels := v.setWidth 4 }) s
  | 0x25 => writeFrameHeader 0x25 (fun r => { r with bps := v.setWidth 6 }) s
  | 0x26 => writeFrameHeader 0x26 (fun r => { r with number := v.setWidth 36 }) s
  | 0x27 => writeFrameHeader 0x27 (fun r => { r with crc8 := v.setWidth 8 }) s
  | 0x34 => setShift (v.setWidth 5) s
  | n => if 0x40 ≤ n ∧ n ≤ 0x5F then setQlp (n - 0x40) (v.setWidth 16) s else s

/-- A RES address that names an entry (R76). -/
abbrev IsResAddress (a : Nat) : Prop := a ≤ 65534

/-- An SMP address that names an entry: `c × 65536 + i` with `c ≤ 7` and `i ≤ 65534` (R77). -/
abbrev IsSmpAddress (a : Nat) : Prop := a / 65536 ≤ 7 ∧ a % 65536 ≤ 65534

/-- The reset signal (R340): every piece of the core's state at its reset value. The parameters are not state, and the
host's remaining accesses, the record of a model fault and the count of free values go on (log 12). -/
def resetCore (s : State) : State :=
  { State.reset with cfg := s.cfg, inbox := s.inbox, undefRead := s.undefRead, freeCtr := s.freeCtr }

/-- One access of the host other than the issue of a command. -/
def hostAccess (a : HostAccess) (s : State) : Host.Outcome State Fault Refusal :=
  match a with
  | .writeRegister n v => .next (registerWrite n.toNat v s)
  | .readRegister n => .next { s with hostData := registerRead s n.toNat }
  | .writeBuf a b => if a < s.cfg.bufMax then .next { s with buf := cellSet s.buf a b } else .fault .noSuchByte
  | .readBuf a =>
    if a < s.cfg.bufMax then .next { s with hostData := (cellGet s.buf a).map zeroExtend } else .fault .noSuchByte
  | .writeRes a v => .next (if IsResAddress a then { s with res := cellSet s.res a v } else s)
  | .readRes a => .next { s with hostData := if IsResAddress a then cellGet s.res a else some 0 }
  | .writeSmp a v => .next (if IsSmpAddress a then { s with smp := cellSet s.smp a v } else s)
  | .readSmp a => .next { s with hostData := if IsSmpAddress a then cellGet s.smp a else some 0 }
  | .reset => .next (resetCore s)

end Sys2Proof.Machine
end

