-- ==== Sys2Proof/Machine/Fetch.lean ====
section
/-! DEFINITION. What the core does next: it fetches nothing from memory (20_memory.md R84); it serves the host's next
access, and a write to CMD hands it a command word (10_state.md R38). -/

namespace Sys2Proof.Machine

/-- What the core finds to do. -/
inductive Fetched where
  /-- Run an instruction in this state. -/
  | run (i : Instr) (s : State)
  /-- An access that is no command has been served, or a command word refused. -/
  | served (o : Host.Outcome State Fault Refusal)

/-- The subframe header byte at the cursor, if the buffer holds all of it. -/
def headerAtCursor (s : State) : Option Byte :=
  if s.pos.toNat + 8 > 8 * s.len.toNat then none
  else match peekBits 8 s.pos.toNat 0 s with
    | .ok v _ => some (BitVec.ofNat 8 v)
    | .raised _ _ => none
    | .faulted _ => none

/-- The subframe header a waiting SUBF finds at its cursor. Where there is no legal header, the SUBF itself runs and
reports why (R220, R305; log 1). -/
def fetchHeader (o : SubframeOperands) (s : State) : Fetched :=
  match (headerAtCursor s).map decodeSubframeHeader with
  | some (.ok i) => .run i s
  | some (.error _) => .run (.subf o.channel o.bps) { s with sub := none }
  | none => .run (.subf o.channel o.bps) { s with sub := none }

/-- A host write of v to CMD (R38): the command word is bits [31:0]; bits [63:32] must be zero, else the command is
IllegalCommand, as is a word the decoder refuses (R101, R103). -/
def issue (v : Word) (s : State) : Fetched :=
  if v.toNat < 2 ^ 32 then
    match decodeCommand (v.setWidth 32) with
    | .ok i => .run i s
    | .error _ => .served (illegalWord s)
  else .served (illegalWord s)

/-- The next thing to do: the header of a waiting SUBF, or the host's oldest access. With neither the core is idle and
waits (R341). -/
def fetch (s : State) : Fetched :=
  match s.sub with
  | some o => fetchHeader o s
  | none =>
    match s.inbox with
    | [] => .served (.next s)
    | .writeRegister 0x00 v :: rest => issue v { s with inbox := rest }
    | a :: rest => .served (hostAccess a { s with inbox := rest })

/-- BUF with the 8 bits of b at bit position p, the bits around them kept (an unwritten neighbour byte counts as 0). -/
def placeByte (m : Memory) (p : Nat) (b : Byte) : Memory :=
  let k := p / 8
  let r := p % 8
  if r = 0 then cellSet m k b
  else
    let both : BitVec 16 := ((cellGet m k).getD 0) ++ ((cellGet m (k + 1)).getD 0)
    let mask : BitVec 16 := 0xFF#16 <<< (8 - r)
    let new := (both &&& ~~~mask) ||| (b.setWidth 16 <<< (8 - r))
    cellSet (cellSet m k (new.extractLsb' 8 8)) (k + 1) (new.extractLsb' 0 8)

/-- The state in which a SUBF (channel 0, 16 bits) waits for the header byte b at the cursor (log 13). -/
def withHeader (s : State) (b : Byte) : State :=
  { s with
    sub := some { channel := 0, bps := 16 }
    buf := placeByte s.buf s.pos.toNat b
    len := BitVec.ofNat 64 (max s.len.toNat ((s.pos.toNat + 15) / 8)) }

/-- The state in which the host's next access writes the word w to CMD. -/
def withCommand (s : State) (w : Nat) : State :=
  { s with sub := none, inbox := .writeRegister 0x00 (BitVec.ofNat 64 w) :: s.inbox }

end Sys2Proof.Machine
end

