-- ==== Sys2Proof/Machine/Step.lean ====
section
/-! DEFINITION. One step of the core: one command or one other access of the host (70_reset_and_hazards.md R356). -/

namespace Sys2Proof.Machine

/-- One step: what `fetch` finds is run or has been served. -/
def step (s : State) : Host.Outcome State Fault Refusal :=
  match fetch s with
  | .run i t => exec i t
  | .served o => o

/-- s with the instruction of the bits w where step fetches its next instruction: a command word as the host's next
write to CMD, a subframe header (a row of 8 bits) at the cursor of a waiting SUBF (logs 2, 11, 13). -/
def State.withFetchWord (s : State) (nbits w : Nat) : State :=
  if nbits = 8 then withHeader s (BitVec.ofNat 8 w) else withCommand s w

end Sys2Proof.Machine
end

