-- ==== Sys2Proof/Machine/Bitstream.lean ====
section
/-! DEFINITION. The bitstream as 30_encoding.md Part B lays it out, written from the encoder's side: the bits of every field,
residual section, subframe and frame, and the values they stand for. Claims say "these bits stand at the cursor, so the
command gives these values"; nothing here is used by `exec`. -/

namespace Sys2Proof.Machine

/-! Fields (20_memory.md R72, R73; 30_encoding.md R111 to R113). -/

/-- The n-bit field of value v, most significant bit first (R73). -/
def uintBits : (n v : Nat) → List Bool
  | 0, _ => []
  | n + 1, v => v.testBit n :: uintBits n v

/-- The n-bit two's-complement field of value v. -/
def sintBits (n : Nat) (v : Int) : List Bool := uintBits n (v % 2 ^ n).toNat

/-- The unary code of q: q bits `1 - P_UNARY_STOP`, then the stop bit (R111). -/
def unaryBits (stop : Bool) (q : Nat) : List Bool := List.replicate q (!stop) ++ [stop]

/-- The inverse of the zig-zag fold (R113). -/
def unfold (v : Int) : Nat := if 0 ≤ v then (2 * v).toNat else (-2 * v - 1).toNat

/-- The Rice code of v with parameter k (R112). -/
def riceBits (stop : Bool) (k : Nat) (v : Int) : List Bool :=
  unaryBits stop (unfold v / 2 ^ k) ++ uintBits k (unfold v % 2 ^ k)

/-- A value a 64-bit entry holds. -/
abbrev FitsEntry (v : Int) : Prop := InRange v 64

/-! Bits in the buffer. -/

/-- The bit at position p is b (R72). -/
abbrev BitIs (m : Memory) (p : Nat) (b : Bool) : Prop :=
  (cellGet m (p / 8)).map (fun x => x.getLsbD (7 - p % 8)) = some b

/-- The bits bs stand from position p on. -/
def bitsAt (m : Memory) : (p : Nat) → List Bool → Bool
  | _, [] => true
  | p, b :: bs => decide (BitIs m p b) && bitsAt m (p + 1) bs

/-- The bits bs are the next ones the cursor consumes, and the buffer holds all of them. -/
abbrev Stands (s : State) (bs : List Bool) : Prop :=
  s.pos.toNat + bs.length ≤ 8 * s.len.toNat ∧ bitsAt s.buf s.pos.toNat bs = true

/-- LEN is inside the largest P_BUF_MAX of 00_scope.md R11. -/
abbrev Bounded (s : State) : Prop := s.len.toNat ≤ 2 ^ 61

/-- The bytes whose last bit lies in positions p .. q - 1 (R163). -/
def completedBytes (m : Memory) (p q : Nat) : List Byte :=
  (List.range (q / 8 - p / 8)).map fun j => (cellGet m (p / 8 + j)).getD 0

/-- What consuming n bits does (R162): POS moves and each completed byte enters both CRCs, in order. -/
def moveBy (n : Nat) (s : State) : State :=
  { s with
    pos := BitVec.ofNat 65 (s.pos.toNat + n)
    crc8 := (completedBytes s.buf s.pos.toNat (s.pos.toNat + n)).foldl crc8Byte s.crc8
    crc16 := (completedBytes s.buf s.pos.toNat (s.pos.toNat + n)).foldl crc16Byte s.crc16 }

/-! A code field by field: what the cursor finds when the buffer ends inside one depends on the kind of the field. -/

/-- How the cursor reads a field: a field of a known width (R150), a unary code (R152), or the unary part of a Rice code
with parameter k (R153). -/
inductive FieldKind where
  | fixed
  | unary
  | quotient (k : Nat)
  deriving DecidableEq, Repr

/-- A field of a code. -/
structure BitField where
  kind : FieldKind
  bits : List Bool
  deriving DecidableEq, Repr

/-- The bits of a sequence of fields. -/
def fieldBits (fs : List BitField) : List Bool := fs.flatMap BitField.bits

/-- What the end of the buffer inside a field is (R150, R152): a cut field of a known width is OutOfData, a unary code with no
stop bit MalformedStream. -/
def FieldKind.cutCode : FieldKind → Code
  | .fixed => .outOfData
  | .unary => .malformedStream
  | .quotient _ => .malformedStream

/-- The fields of a Rice code (R112). -/
def riceFields (stop : Bool) (k : Nat) (v : Int) : List BitField :=
  [⟨.quotient k, unaryBits stop (unfold v / 2 ^ k)⟩, ⟨.fixed, uintBits k (unfold v % 2 ^ k)⟩]

/-! The residual section (R135; 43_residual.md). -/

/-- One partition: Rice codes with parameter k, or an escape of width w with raw fields. -/
inductive PartitionCode where
  | rice (k : Nat) (residuals : List Int)
  | raw (w : Nat) (residuals : List Int)
  deriving DecidableEq, Repr

/-- Its residuals in stream order (R204). -/
def PartitionCode.residuals : PartitionCode → List Int
  | .rice _ rs => rs
  | .raw _ rs => rs

/-- Its bits, with parameters of pbits bits (R135). -/
def PartitionCode.bits (stop : Bool) (pbits : Nat) : PartitionCode → List Bool
  | .rice k rs => uintBits pbits k ++ rs.flatMap (riceBits stop k)
  | .raw w rs => uintBits pbits (2 ^ pbits - 1) ++ uintBits 5 w ++ rs.flatMap (sintBits w)

/-- Its fields (R135, R203). -/
def PartitionCode.fields (stop : Bool) (pbits : Nat) : PartitionCode → List BitField
  | .rice k rs => ⟨.fixed, uintBits pbits k⟩ :: rs.flatMap (riceFields stop k)
  | .raw w rs =>
    ⟨.fixed, uintBits pbits (2 ^ pbits - 1)⟩ :: ⟨.fixed, uintBits 5 w⟩ :: rs.map fun v => ⟨.fixed, sintBits w v⟩

/-- A Rice parameter below the sentinel and residuals of 64 bits, or a width 0..31 and residuals of that width, the
residuals of width 0 being 0 (R203, R205, R206). -/
def PartitionCode.legal (pbits : Nat) : PartitionCode → Bool
  | .rice k rs => decide (k < 2 ^ pbits - 1) && rs.all fun v => decide (FitsEntry v)
  | .raw w rs => decide (w < 32) && rs.all fun v => if w = 0 then decide (v = 0) else decide (InRange v w)

/-- A residual section: method 0 or 1, partition order, partitions. -/
structure SectionCode where
  method : Nat
  porder : Nat
  parts : List PartitionCode
  deriving DecidableEq, Repr

/-- The width of its Rice parameters (R201). -/
def SectionCode.pbits (x : SectionCode) : Nat := if x.method = 0 then 4 else 5

/-- Its residuals in stream order (R204). -/
def SectionCode.residuals (x : SectionCode) : List Int := x.parts.flatMap PartitionCode.residuals

/-- Its bits (R135). -/
def SectionCode.bits (stop : Bool) (x : SectionCode) : List Bool :=
  uintBits 2 x.method ++ uintBits 4 x.porder ++ x.parts.flatMap (PartitionCode.bits stop x.pbits)

/-- Its fields (R135, R200). -/
def SectionCode.fields (stop : Bool) (x : SectionCode) : List BitField :=
  ⟨.fixed, uintBits 2 x.method⟩ :: ⟨.fixed, uintBits 4 x.porder⟩ :: x.parts.flatMap (PartitionCode.fields stop x.pbits)

/-- It is a section of a block of nblk samples behind `order` warm-up samples (R200 to R204). -/
def SectionCode.legal (nblk order : Nat) (x : SectionCode) : Bool :=
  decide (x.method < 2) && decide (x.porder < 16) && decide (x.parts.length = 2 ^ x.porder) &&
  decide (nblk % 2 ^ x.porder = 0) && decide (order ≤ nblk / 2 ^ x.porder) &&
  x.parts.all (PartitionCode.legal x.pbits) &&
  decide (x.parts.map (fun q => q.residuals.length) =
    (nblk / 2 ^ x.porder - order) :: List.replicate (2 ^ x.porder - 1) (nblk / 2 ^ x.porder))

/-! Prediction (42_predictor.md R181 to R185). -/

/-- The coefficients of the fixed predictor of an order 0..4, the newest sample's first, as R181 writes them. -/
def fixedCoefficients : (order : Nat) → List Int
  | 1 => [1]
  | 2 => [2, -1]
  | 3 => [3, -3, 1]
  | 4 => [4, -6, 4, -1]
  | _ => []

/-- `Σ coefficient[j] × history[j]`, the newest sample first (R184). -/
def weigh : List Int → List Int → Int
  | q :: qs, x :: xs => q * x + weigh qs xs
  | _, _ => 0

/-- The samples that follow a history (newest first) for these residuals: each is its residual plus the floor-shifted
weighted sum of the samples before it (R182, R185). -/
def follow (coefficients : List Int) (shift : Nat) : (history residuals : List Int) → List Int
  | _, [] => []
  | h, r :: rs =>
    let x := r + (weigh coefficients h >>> shift)
    x :: follow coefficients shift (x :: h) rs

/-- The block of these warm-up samples and residuals. -/
def rebuild (coefficients : List Int) (shift : Nat) (warmup residuals : List Int) : List Int :=
  warmup ++ follow coefficients shift warmup.reverse residuals

/-! Subframes (R130 to R134; 44_subframe.md). -/

/-- A subframe body. -/
inductive BodyCode where
  | constant (v : Int)
  | verbatim (samples : List Int)
  | fixed (warmup : List Int) (residual : SectionCode)
  | lpc (warmup : List Int) (prec shift : Nat) (coefficients : List Int) (residual : SectionCode)
  deriving DecidableEq, Repr

/-- The predictor order (R221). -/
def BodyCode.order : BodyCode → Nat
  | .constant _ => 0
  | .verbatim _ => 0
  | .fixed warm _ => warm.length
  | .lpc warm _ _ _ _ => warm.length

/-- The type code (R130). -/
def BodyCode.typeCode : BodyCode → Nat
  | .constant _ => 0
  | .verbatim _ => 1
  | .fixed warm _ => 8 + warm.length
  | .lpc warm _ _ _ _ => 31 + warm.length

/-- The bits of a body at the effective depth (R132 to R134). -/
def BodyCode.bits (stop : Bool) (ebps : Nat) : BodyCode → List Bool
  | .constant v => sintBits ebps v
  | .verbatim xs => xs.flatMap (sintBits ebps)
  | .fixed warm sec => warm.flatMap (sintBits ebps) ++ sec.bits stop
  | .lpc warm prec shift cs sec =>
    warm.flatMap (sintBits ebps) ++ uintBits 4 (prec - 1) ++ sintBits 5 shift ++ cs.flatMap (sintBits prec) ++
    sec.bits stop

/-- The bits of a body before its residual section; none for a body without one (R132 to R134). -/
def BodyCode.beforeSection (ebps : Nat) : BodyCode → Option (List Bool)
  | .constant _ => none
  | .verbatim _ => none
  | .fixed warm _ => some (warm.flatMap (sintBits ebps))
  | .lpc warm prec shift cs _ =>
    some (warm.flatMap (sintBits ebps) ++ uintBits 4 (prec - 1) ++ sintBits 5 shift ++ cs.flatMap (sintBits prec))

/-- The fields of a body (R132 to R134). -/
def BodyCode.fields (stop : Bool) (ebps : Nat) : BodyCode → List BitField
  | .constant v => [⟨.fixed, sintBits ebps v⟩]
  | .verbatim xs => xs.map fun v => ⟨.fixed, sintBits ebps v⟩
  | .fixed warm sec => (warm.map fun v => ⟨.fixed, sintBits ebps v⟩) ++ sec.fields stop
  | .lpc warm prec shift cs sec =>
    (warm.map fun v => ⟨.fixed, sintBits ebps v⟩) ++ [⟨.fixed, uintBits 4 (prec - 1)⟩, ⟨.fixed, sintBits 5 shift⟩] ++
    (cs.map fun v => ⟨.fixed, sintBits prec v⟩) ++ sec.fields stop

/-- The samples of a body before the wasted-bits shift (R226 to R230). -/
def BodyCode.samples (nblk : Nat) : BodyCode → List Int
  | .constant v => List.replicate nblk v
  | .verbatim xs => xs
  | .fixed warm sec => rebuild (fixedCoefficients warm.length) 0 warm sec.residuals
  | .lpc warm _ shift cs sec => rebuild cs shift warm sec.residuals

/-- The residuals a body puts into RES. -/
def BodyCode.residuals : BodyCode → List Int
  | .constant _ => []
  | .verbatim _ => []
  | .fixed _ sec => sec.residuals
  | .lpc _ _ _ _ sec => sec.residuals

/-- Every value fits a signed field of w bits. -/
def allFit (w : Nat) (vs : List Int) : Bool := vs.all fun v => decide (InRange v w)

/-- Its fields are legal, in a block of nblk samples at the effective depth, for a core whose largest LPC order is
maxLpc; its predicted samples may be outside the depth. -/
def BodyCode.fieldsLegal (maxLpc nblk ebps : Nat) : BodyCode → Bool
  | .constant v => decide (InRange v ebps)
  | .verbatim xs => decide (xs.length = nblk) && allFit ebps xs
  | .fixed warm sec =>
    decide (warm.length ≤ 4 ∧ warm.length ≤ nblk) && allFit ebps warm && sec.legal nblk warm.length
  | .lpc warm prec shift cs sec =>
    decide (1 ≤ warm.length ∧ warm.length ≤ 32 ∧ warm.length ≤ maxLpc ∧ warm.length ≤ nblk) && allFit ebps warm &&
    decide (1 ≤ prec ∧ prec ≤ 15) && decide (shift ≤ 15) &&
    decide (cs.length = warm.length) && allFit prec cs && sec.legal nblk warm.length

/-- It is a body of a block of nblk samples at the effective depth: its fields are legal and its samples fit (R186). -/
def BodyCode.legal (maxLpc nblk ebps : Nat) (x : BodyCode) : Bool :=
  x.fieldsLegal maxLpc nblk ebps && allFit ebps (x.samples nblk)

/-- A subframe: its wasted-bits count and its body. -/
structure SubframeCode where
  wasted : Nat
  body : BodyCode
  deriving DecidableEq, Repr

/-- The bits before the body of a subframe of type code t: the header byte (R130) and the wasted-bits count (R131). -/
def subframeStart (stop : Bool) (t wasted : Nat) : List Bool :=
  false :: uintBits 6 t ++ [decide (0 < wasted)] ++ (if 0 < wasted then unaryBits stop (wasted - 1) else [])

/-- The bits of a subframe of depth bps (R130 to R135). -/
def SubframeCode.bits (stop : Bool) (bps : Nat) (x : SubframeCode) : List Bool :=
  subframeStart stop x.body.typeCode x.wasted ++ x.body.bits stop (bps - x.wasted)

/-- Its fields (R130, R131, R220). -/
def SubframeCode.fields (stop : Bool) (bps : Nat) (x : SubframeCode) : List BitField :=
  [⟨.fixed, [false]⟩, ⟨.fixed, uintBits 6 x.body.typeCode⟩, ⟨.fixed, [decide (0 < x.wasted)]⟩] ++
  (if 0 < x.wasted then [⟨.unary, unaryBits stop (x.wasted - 1)⟩] else []) ++ x.body.fields stop (bps - x.wasted)

/-- The channel's samples (R222). -/
def SubframeCode.samples (nblk : Nat) (x : SubframeCode) : List Int :=
  (x.body.samples nblk).map fun v => v * 2 ^ x.wasted

/-- It is a subframe of a block of nblk samples at depth bps. -/
def SubframeCode.legal (maxLpc nblk bps : Nat) (x : SubframeCode) : Bool :=
  decide (x.wasted < bps) && x.body.legal maxLpc nblk (bps - x.wasted)

/-- The header of the subframe as an instruction of the opcode table. -/
def SubframeCode.header (x : SubframeCode) : Except DecodeError Instr :=
  classifyHeader (BitVec.ofNat 6 x.body.typeCode) (decide (0 < x.wasted))

/-! Frames (R120 to R128, R136; 46_frame.md). -/

/-- The bytes of a sequence of bits of whole bytes, most significant bit first. -/
def packBytes : List Bool → List Byte
  | b7 :: b6 :: b5 :: b4 :: b3 :: b2 :: b1 :: b0 :: rest =>
    BitVec.ofNat 8 (128 * b7.toNat + 64 * b6.toNat + 32 * b5.toNat + 16 * b4.toNat + 8 * b3.toNat + 4 * b2.toNat +
      2 * b1.toNat + b0.toNat) :: packBytes rest
  | _ => []

/-- A frame header's fields (R121); `extra` is how many bytes follow the first one of the number (R127). -/
structure HeaderCode where
  blocking : Nat
  blockCode : Nat
  rateCode : Nat
  channelCode : Nat
  sizeCode : Nat
  number : Nat
  extra : Nat
  blockExt : Nat
  rateExt : Nat
  deriving DecidableEq, Repr

/-- The first byte of the number with `extra` bytes after it: its marker, then the high bits of the number (R127). -/
def numberFirst (extra number : Nat) : Nat :=
  match extra with
  | 0 => number
  | 1 => 0xC0 + number / 64
  | 2 => 0xE0 + number / 64 ^ 2
  | 3 => 0xF0 + number / 64 ^ 3
  | 4 => 0xF8 + number / 64 ^ 4
  | 5 => 0xFC + number / 64 ^ 5
  | _ => 0xFE

/-- The extra bytes of the number: `10xxxxxx`, six bits each, in order (R127). -/
def numberTail : (extra number : Nat) → List Bool
  | 0, _ => []
  | n + 1, number => uintBits 8 (0x80 + number / 64 ^ n % 64) ++ numberTail n number

/-- How many value bits a number with `extra` extra bytes has (R127). -/
def numberWidth (extra : Nat) : Nat :=
  match extra with
  | 0 => 7
  | 1 => 11
  | 2 => 16
  | 3 => 21
  | 4 => 26
  | 5 => 31
  | _ => 36

/-- The width of the block-size extension (R122). -/
def HeaderCode.blockExtBits (h : HeaderCode) : Nat :=
  if h.blockCode = 6 then 8 else if h.blockCode = 7 then 16 else 0

/-- The width of the sample-rate extension (R123). -/
def HeaderCode.rateExtBits (h : HeaderCode) : Nat :=
  if h.rateCode = 12 then 8 else if h.rateCode = 13 ∨ h.rateCode = 14 then 16 else 0

/-- The sync code (R121, R261). -/
def syncBits : List Bool := uintBits 14 0x3FFE

/-- A header up to its blocking bit (R121). -/
def HeaderCode.toBlocking (h : HeaderCode) : List Bool := syncBits ++ [false] ++ uintBits 1 h.blocking

/-- A header up to its block-size code (R121). -/
def HeaderCode.toBlockCode (h : HeaderCode) : List Bool := h.toBlocking ++ uintBits 4 h.blockCode

/-- A header up to its sample-rate code (R121). -/
def HeaderCode.toRateCode (h : HeaderCode) : List Bool := h.toBlockCode ++ uintBits 4 h.rateCode

/-- A header up to its channel code (R121). -/
def HeaderCode.toChannelCode (h : HeaderCode) : List Bool := h.toRateCode ++ uintBits 4 h.channelCode

/-- A header up to its sample-size code (R121). -/
def HeaderCode.toSizeCode (h : HeaderCode) : List Bool := h.toChannelCode ++ uintBits 3 h.sizeCode

/-- The fixed 32 bits of a header (R121). -/
def HeaderCode.fixedBits (h : HeaderCode) : List Bool := h.toSizeCode ++ [false]

/-- The starts of a header that end in a reserved value, the fields before it being those of h (R137, R262): a reserved
bit of 1, block-size code 0, sample-rate code 15, channel code 11 to 15, sample-size code 3 or 7. -/
def HeaderCode.reservedStarts (h : HeaderCode) : List (List Bool) :=
  [syncBits ++ [true], h.toBlocking ++ uintBits 4 0, h.toBlockCode ++ uintBits 4 15,
    h.toRateCode ++ uintBits 4 11, h.toRateCode ++ uintBits 4 12, h.toRateCode ++ uintBits 4 13,
    h.toRateCode ++ uintBits 4 14, h.toRateCode ++ uintBits 4 15,
    h.toChannelCode ++ uintBits 3 3, h.toChannelCode ++ uintBits 3 7, h.toSizeCode ++ [true]]

/-- The bits of the number (R127). -/
def HeaderCode.numberBits (h : HeaderCode) : List Bool :=
  uintBits 8 (numberFirst h.extra h.number) ++ numberTail h.extra h.number

/-- The header's bits before its CRC-8 (R121). -/
def HeaderCode.bodyBits (h : HeaderCode) : List Bool :=
  h.fixedBits ++ h.numberBits ++ uintBits h.blockExtBits h.blockExt ++ uintBits h.rateExtBits h.rateExt

/-- The header's CRC-8 (R128). -/
def HeaderCode.crc (h : HeaderCode) : Byte := (packBytes h.bodyBits).foldl crc8Byte 0

/-- The header's bits (R121). -/
def HeaderCode.bits (h : HeaderCode) : List Bool := h.bodyBits ++ uintBits 8 h.crc.toNat

/-- The block size (R122). -/
def HeaderCode.blockSize (h : HeaderCode) : Nat :=
  if h.blockCode = 1 then 192
  else if h.blockCode ≤ 5 then 576 * 2 ^ (h.blockCode - 2)
  else if h.blockCode = 6 ∨ h.blockCode = 7 then h.blockExt + 1
  else 256 * 2 ^ (h.blockCode - 8)

/-- The sample rate in Hz (R123). -/
def HeaderCode.rate (siRate : Nat) (h : HeaderCode) : Nat :=
  match h.rateCode with
  | 0 => siRate
  | 1 => 88200
  | 2 => 176400
  | 3 => 192000
  | 4 => 8000
  | 5 => 16000
  | 6 => 22050
  | 7 => 24000
  | 8 => 32000
  | 9 => 44100
  | 10 => 48000
  | 11 => 96000
  | 12 => h.rateExt * 1000
  | 13 => h.rateExt
  | _ => h.rateExt * 10

/-- The nominal bits per sample (R126). -/
def HeaderCode.bps (siBps : Nat) (h : HeaderCode) : Nat :=
  match h.sizeCode with
  | 0 => siBps
  | 1 => 8
  | 2 => 12
  | 4 => 16
  | 5 => 20
  | _ => 24

/-- How many channels a channel code stands for (R125). -/
def HeaderCode.channels (h : HeaderCode) : Nat := if h.channelCode ≤ 7 then h.channelCode + 1 else 2

/-- None of its codes is reserved (R122, R123, R125, R126). -/
def HeaderCode.codesLegal (h : HeaderCode) : Bool :=
  decide (h.blocking < 2) && decide (1 ≤ h.blockCode ∧ h.blockCode < 16) && decide (h.rateCode < 15) &&
  decide (h.channelCode < 11) &&
  decide (h.sizeCode = 0 ∨ h.sizeCode = 1 ∨ h.sizeCode = 2 ∨ h.sizeCode = 4 ∨ h.sizeCode = 5 ∨ h.sizeCode = 6)

/-- The number fits its code (R127). -/
def HeaderCode.numberLegal (h : HeaderCode) : Bool := decide (h.extra < 7) && decide (h.number < 2 ^ numberWidth h.extra)

/-- Every field is legal, whatever StreamInfo says (R121 to R127). -/
def HeaderCode.fieldsLegal (h : HeaderCode) : Bool :=
  h.codesLegal && h.numberLegal && decide (h.blockExt < 2 ^ h.blockExtBits) && decide (h.blockSize ≤ 65535) &&
  decide (h.rateExt < 2 ^ h.rateExtBits)

/-- The header agrees with StreamInfo (R265). -/
abbrev HeaderCode.Agrees (s : State) (h : HeaderCode) : Prop :=
  h.channels = s.si.channels.toNat ∧ h.bps s.si.bps.toNat = s.si.bps.toNat ∧
  (s.si.maxBlock.toNat = 0 ∨ h.blockSize ≤ s.si.maxBlock.toNat)

/-- The header is legal, agrees with StreamInfo and is inside the configured depth (R265). -/
def HeaderCode.legal (s : State) (h : HeaderCode) : Bool :=
  h.fieldsLegal && decide (h.Agrees s) && decide (s.si.bps.toNat ≤ s.cfg.maxBps)

/-- The frame header registers the header stands for (R260). -/
def HeaderCode.registers (s : State) (h : HeaderCode) : FrameHeader where
  blocking := BitVec.ofNat 1 h.blocking
  blockSize := BitVec.ofNat 17 h.blockSize
  rate := BitVec.ofNat 20 (h.rate s.si.rate.toNat)
  chAssign := BitVec.ofNat 4 h.channelCode
  channels := BitVec.ofNat 4 h.channels
  bps := BitVec.ofNat 6 (h.bps s.si.bps.toNat)
  number := BitVec.ofNat 36 h.number
  crc8 := h.crc

/-- A frame: header, one subframe per channel, padding bits, the CRC-16 field (R120). -/
structure FrameCode where
  header : HeaderCode
  subframes : List SubframeCode
  padding : List Bool
  crc : Nat
  deriving DecidableEq, Repr

/-- The extra bit of a side channel (R223, R246): channel 1 of left/side and mid/side, channel 0 of right/side. -/
def sideExtra (assign c : Nat) : Nat := if [(8, 1), (9, 0), (10, 1)].contains (assign, c) then 1 else 0

/-- The bits of the subframes from channel c on; the side channel has one bit more (R281). -/
def subframeListBits (stop : Bool) (bps assign : Nat) : (c : Nat) → List SubframeCode → List Bool
  | _, [] => []
  | c, x :: xs => x.bits stop (bps + sideExtra assign c) ++ subframeListBits stop bps assign (c + 1) xs

/-- Every subframe from channel c on is legal at its channel's depth. -/
def subframeListLegal (cfg : Params) (nblk bps assign : Nat) : (c : Nat) → List SubframeCode → Bool
  | _, [] => true
  | c, x :: xs =>
    decide (bps + sideExtra assign c ≤ cfg.maxSubframeBps) &&
    x.legal cfg.maxLpcOrder nblk (bps + sideExtra assign c) && subframeListLegal cfg nblk bps assign (c + 1) xs

/-- The bits after the header and before the CRC-16 (R120). -/
def FrameCode.bodyBits (s : State) (x : FrameCode) : List Bool :=
  subframeListBits s.cfg.unaryStop s.si.bps.toNat x.header.channelCode 0 x.subframes ++ x.padding

/-- The bits of a frame (R120, R136). -/
def FrameCode.bits (s : State) (x : FrameCode) : List Bool :=
  x.header.bits ++ x.bodyBits s ++ uintBits 16 x.crc

/-- The CRC-16 the core computes over the frame (R267, R9). -/
def FrameCode.expectedCrc (s : State) (x : FrameCode) : BitVec 16 :=
  (packBytes (if s.cfg.crc16FromSync then x.header.bits ++ x.bodyBits s else x.bodyBits s)).foldl crc16Byte 0

/-- The decoded channels before decorrelation (R280). -/
def FrameCode.coded (x : FrameCode) : List (List Int) := x.subframes.map (SubframeCode.samples x.header.blockSize)

/-- The left and right samples of a pair of a stereo assignment: left/side (8) holds left and left - right, right/side
(9) left - right and right (R242), mid/side (10) the floor of their mean and left - right (R243). -/
def leftRight (assign : Nat) (x0 x1 : Int) : Int × Int :=
  match assign with
  | 8 => (x0, x0 - x1)
  | 9 => (x1 + x0, x1)
  | _ => (x0 - x1 / 2 + x1, x0 - x1 / 2)

/-- The channels after decorrelation (R241 to R243). -/
def FrameCode.decoded (x : FrameCode) : List (List Int) :=
  match x.coded with
  | [c0, c1] =>
    if x.header.channelCode ≤ 7 then [c0, c1]
    else [(List.zipWith (leftRight x.header.channelCode) c0 c1).map Prod.fst,
      (List.zipWith (leftRight x.header.channelCode) c0 c1).map Prod.snd]
  | cs => cs

/-- The frame is legal: its header, a subframe for every channel, padding to the byte boundary, decorrelated samples
inside the nominal depth (R245), a 16-bit CRC field. -/
def FrameCode.legal (s : State) (x : FrameCode) : Bool :=
  x.header.legal s && decide (x.subframes.length = x.header.channels) &&
  subframeListLegal s.cfg x.header.blockSize s.si.bps.toNat x.header.channelCode 0 x.subframes &&
  decide (x.padding.length < 8 ∧ (x.bodyBits s).length % 8 = 0) &&
  (decide (x.header.channelCode ≤ 7) ||
    x.decoded.all fun ch => ch.all fun v => decide (InRange v s.si.bps.toNat)) &&
  decide (x.crc < 2 ^ 16)

end Sys2Proof.Machine
end

