-- ==== Sys2Proof/Safety.lean ====
section
/-! DEFINITION. The terms claims use: the invariant of the machine, what a run without a model fault is, and what a command
leaves behind. -/

namespace Sys2Proof.Machine

/-! The invariant. -/

/-- BUF, RES and SMP are in canonical form. -/
def CanonicalMemory (s : State) : Prop :=
  Memory.wf s.buf = true ∧ Entries.wf s.res = true ∧ Entries.wf s.smp = true

/-- Only addresses that exist are listed (20_memory.md R75 to R77). -/
def AddressesExist (s : State) : Prop :=
  (∀ c ∈ s.buf, c.1 < s.cfg.bufMax) ∧ (∀ c ∈ s.res, IsResAddress c.1) ∧ (∀ c ∈ s.smp, IsSmpAddress c.1)

/-- `0 ≤ POS ≤ 8 × LEN` and `LEN ≤ P_BUF_MAX` (10_state.md R31, R32). -/
def CursorInBuffer (s : State) : Prop :=
  s.pos.toNat ≤ 8 * s.len.toNat ∧ s.len.toNat ≤ s.cfg.bufMax

/-- SI_VALID is 1 only over a complete StreamInfo in its legal ranges (R40). -/
def StreamInfoSound (s : State) : Prop := s.siValid = true → streamInfoComplete s = true

/-- Only registers that can hold UNDEF are marked so (R340), and of these a failed command has left UNDEF only FH, SF and QLP
registers (R303). -/
def MarksSound (s : State) : Prop :=
  s.undef &&& ~~~undefAtReset = 0 ∧ s.spoiled &&& ~~~(undefAtReset &&& ~~~(markRange 0x10 8)) = 0

/-- The invariant: legal parameters, canonical memory, the cursor inside the buffer, a sound StreamInfo, sound marks,
and no snapshot between commands (R48). -/
def Inv (s : State) : Prop :=
  s.cfg.Legal ∧ CanonicalMemory s ∧ AddressesExist s ∧ CursorInBuffer s ∧ StreamInfoSound s ∧ MarksSound s ∧
  s.snap = none

/-- The core's state at reset (70_reset_and_hazards.md R340): what the spec gives a value has it, CMD and SEEK read 0, and
what is UNDEF reads as UNDEF; a StreamInfo register is unwritten, and no failed command has left anything UNDEF. -/
def AtReset (t : State) : Prop :=
  t.pos = 0 ∧ t.len = 0 ∧ t.crc8 = 0 ∧ t.crc16 = 0 ∧ t.result = 0 ∧
  t.code = .ok ∧ t.valid = false ∧ t.sticky = false ∧ t.scan = false ∧ t.siValid = false ∧ t.snap = none ∧ t.spoiled = 0 ∧
  registerRead t 0x00 = some 0 ∧ registerRead t 0x05 = some 0 ∧
  (∀ n, (0x10 ≤ n ∧ n ≤ 0x17) ∨ (0x20 ≤ n ∧ n ≤ 0x27) ∨ (0x30 ≤ n ∧ n ≤ 0x34) ∨ (0x40 ≤ n ∧ n ≤ 0x5F) →
    registerRead t n = none) ∧
  (∀ a, cellGet t.buf a = none) ∧ (∀ a, cellGet t.res a = none) ∧ (∀ a, cellGet t.smp a = none)

/-! Runs. -/

/-- A run of k steps that ends with no model fault recorded (70_reset_and_hazards.md R358). -/
def EndsWithoutModelFault (k : Nat) (s t : State) : Prop := Sys2Proof.core.run k s = .next t ∧ t.undefRead = false

/-- Every byte of the buffer has been written. -/
def BufferWritten (s : State) : Prop := ∀ a, a < s.len.toNat → (cellGet s.buf a).isSome = true

/-! What commands leave. -/

/-- A fatal end that leaves nothing UNDEF: only CODE and STICKY change (60_exceptions.md R302). -/
def failed (c : Code) (s : State) : State := { s with code := c, sticky := true, snap := none }

/-- The entries from address a on are these values. -/
def holdsAt (m : Entries) : (a : Nat) → List Int → Bool
  | _, [] => true
  | a, v :: vs => decide (cellGet m a = some (wordOfInt v)) && holdsAt m (a + 1) vs

/-- Address x is outside SMP[c][0..nblk-1]. -/
def OutsideBlock (c nblk x : Nat) : Prop := x < smpAddress c 0 ∨ smpAddress c nblk ≤ x

/-- Every entry outside `a .. a + count - 1` holds in n what it held in m. -/
def SameOutside (m n : Entries) (a count : Nat) : Prop :=
  ∀ x, x < a ∨ a + count ≤ x → cellGet n x = cellGet m x

/-- No entry of `a .. a + count - 1` holds a value, and every other one holds in n what it held in m. -/
def ErasedRange (m n : Entries) (a count : Nat) : Prop :=
  (∀ x, a ≤ x → x < a + count → cellGet n x = none) ∧ SameOutside m n a count

/-- NBLK holds a value inside 1..65535 (10_state.md R42). -/
abbrev NblkReady (s : State) : Prop :=
  s.undef.getLsbD 0x21 = false ∧ 1 ≤ nblkOf s ∧ nblkOf s ≤ 65535

/-- The registers n of a list hold values (R52). -/
abbrev RegistersDefined (s : State) (ns : List Nat) : Prop := (ns.all fun n => !s.undef.getLsbD n) = true

/-- A failed command has left register number n UNDEF and nothing has written it since (R18, R303). -/
abbrev LeftUndef (s : State) (n : Nat) : Bool := s.undef.getLsbD n && s.spoiled.getLsbD n

/-- The bits bs would be the next ones the cursor consumes and lie inside the buffer, but the byte of one of them has not
been written, and those before it stand (R52, R70). -/
def MeetsUnwritten (s : State) (bs : List Bool) : Prop :=
  s.pos.toNat + bs.length ≤ 8 * s.len.toNat ∧
  ∃ k, k < bs.length ∧ bitsAt s.buf s.pos.toNat (bs.take k) = true ∧ cellGet s.buf ((s.pos.toNat + k) / 8) = none

/-- The buffer ends inside a code with these fields: the fields of `before` stand whole, and k bits of the field f after
them are the last in the buffer. -/
def CutInside (s : State) (fields before : List BitField) (f : BitField) (k : Nat) : Prop :=
  before ++ [f] <+: fields ∧ k < f.bits.length ∧ Stands s (fieldBits before ++ f.bits.take k) ∧
  8 * s.len.toNat = s.pos.toNat + (fieldBits before ++ f.bits.take k).length

/-- In place of the unary part of a Rice code with parameter k, behind the fields of `before`, stands the unary code of a
quotient too large for 64 bits (R153). -/
def QuotientTooLarge (s : State) (fields before : List BitField) (f : BitField) : Prop :=
  before ++ [f] <+: fields ∧ ∃ k q, f.kind = .quotient k ∧ 2 ^ (64 - k) ≤ q ∧
    Stands s (fieldBits before ++ unaryBits s.cfg.unaryStop q)

/-- The bits are the start of a residual section that is refused once they are read: a reserved method (R201), a block the
partition count does not divide, or a partition smaller than the order (R202). -/
def BadSectionStart (nblk order : Nat) (bits : List Bool) : Prop :=
  bits = uintBits 2 2 ∨ bits = uintBits 2 3 ∨
  ∃ method porder, method < 2 ∧ porder < 16 ∧ bits = uintBits 2 method ++ uintBits 4 porder ∧
    (nblk % 2 ^ porder ≠ 0 ∨ nblk / 2 ^ porder < order)

/-- QLP[0..order-1], signed. -/
def coefficientsOf (s : State) (order : Nat) : List Int := (List.range order).map (qlpOf s)

/-- A SUBF into channel c has ended with a fatal code other than IllegalCommand (R302, R303): the SF and QLP registers,
RES[0..NBLK-1] and SMP[c][0..NBLK-1] hold UNDEF, CODE and STICKY are written, and nothing else has changed. -/
def SubfFailed (code : Code) (c : Nat) (s t : State) : Prop :=
  t = { failed code s with
        sf := t.sf, qlp := t.qlp, undef := t.undef, spoiled := t.spoiled, res := t.res, smp := t.smp,
        freeCtr := t.freeCtr } ∧
  ErasedRange s.res t.res 0 (nblkOf s) ∧ ErasedRange s.smp t.smp (smpAddress c 0) (nblkOf s) ∧
  (∀ n, t.undef.getLsbD n =
    (s.undef.getLsbD n || decide (0x30 ≤ n ∧ n ≤ 0x34) || decide (0x40 ≤ n ∧ n ≤ 0x5F))) ∧
  (∀ n, t.spoiled.getLsbD n =
    (s.spoiled.getLsbD n || decide (0x30 ≤ n ∧ n ≤ 0x34) || decide (0x40 ≤ n ∧ n ≤ 0x5F)))

/-- Register number n is an FH, an SF or a QLP register (R51). -/
abbrev IsOutputRegister (n : Nat) : Prop :=
  (0x20 ≤ n ∧ n ≤ 0x27) ∨ (0x30 ≤ n ∧ n ≤ 0x34) ∨ (0x40 ≤ n ∧ n ≤ 0x5F)

/-- A subframe x of a block of nblk samples has been decoded into channel c from s, ending in t (44_subframe.md R220,
R222, R226 to R232): the cursor is past it, the SF registers describe it, RES holds its residuals and SMP[c] its
samples, and nothing else has changed. -/
def AfterSubframe (x : SubframeCode) (c bps nblk : Nat) (s t : State) : Prop :=
  t = { moveBy (x.bits s.cfg.unaryStop bps).length s with
        sf := t.sf, qlp := t.qlp, undef := t.undef, res := t.res, smp := t.smp, code := .ok, snap := none } ∧
  t.sf.type.toNat = x.body.typeCode ∧ t.sf.order.toNat = x.body.order ∧ t.sf.wasted.toNat = x.wasted ∧
  (match x.body with
    | .lpc _ prec shift cs _ =>
      t.sf.prec.toNat = prec ∧ t.sf.shift.toInt = shift ∧ coefficientsOf t cs.length = cs ∧
      (∀ j, cs.length ≤ j → j < 32 → qlpOf t j = qlpOf s j) ∧
      (∀ n, t.undef.getLsbD n =
        (s.undef.getLsbD n && !(decide (0x30 ≤ n ∧ n ≤ 0x34) || decide (0x40 ≤ n ∧ n < 0x40 + cs.length))))
    | .constant _ | .verbatim _ | .fixed _ _ =>
      t.sf.prec = s.sf.prec ∧ t.sf.shift = s.sf.shift ∧ t.qlp = s.qlp ∧
      (∀ n, t.undef.getLsbD n = (s.undef.getLsbD n && !decide (0x30 ≤ n ∧ n ≤ 0x32)))) ∧
  holdsAt t.res 0 x.body.residuals = true ∧ SameOutside s.res t.res 0 x.body.residuals.length ∧
  holdsAt t.smp (smpAddress c 0) (x.samples nblk) = true ∧ SameOutside s.smp t.smp (smpAddress c 0) nblk

/-! Sorts of instructions. -/

/-- The Bit Cursor commands (41_bitcursor.md). -/
def isCursorCommand : Instr → Bool
  | .rdb _ => true
  | .rds _ => true
  | .rdu => true
  | .rdr _ => true
  | .aln => true
  | .gc8 => true
  | .gc16 => true
  | .crcr => true
  | _ => false

/-- The subframe headers. -/
def isSubframeHeader : Instr → Bool
  | .sfConstant _ => true
  | .sfVerbatim _ => true
  | .sfFixed0 _ => true
  | .sfFixed1 _ => true
  | .sfFixed2 _ => true
  | .sfFixed3 _ => true
  | .sfFixed4 _ => true
  | .sfLpc _ _ => true
  | _ => false

/-- The commands that read the bitstream and no entry another command must have written. -/
def isStreamCommand (i : Instr) : Bool :=
  isCursorCommand i || match i with
    | .resd _ => true
    | .subf _ _ => true
    | .fhdr => true
    | .fftr => true
    | .frame => true
    | _ => false

/-- The SUBF of channel c of a frame with this header (46_frame.md R280, R281). -/
def subframeOf (h : FrameHeader) (c : Nat) : Instr :=
  .subf (BitVec.ofNat 8 c) (BitVec.ofNat 8 (h.bps.toNat + sideExtra h.chAssign.toNat c))

/-- The DECOR of a frame with this header (46_frame.md R280). -/
def decorOf (h : FrameHeader) : Instr := .decor (BitVec.ofNat 8 h.chAssign.toNat) (BitVec.ofNat 8 h.bps.toNat)

/-- FRAME ends from s with this code. -/
def FrameEnds (s : State) (code : Code) : Prop := ∃ t, exec .frame s = .next t ∧ t.code = code

/-- The subframes of a frame, each a SUBF command that ends with OK, from channel c on (46_frame.md R280, R281). -/
def SubframesRun (h : FrameHeader) : (count c : Nat) → State → State → Prop
  | 0, _, s, t => s = t
  | n + 1, c, s, t =>
    ∃ u, exec (subframeOf h c) s = .next u ∧ u.code = .ok ∧ SubframesRun h n (c + 1) u t

end Sys2Proof.Machine
end

