-- ==== Sys2Proof/Certificates/Slice0/Obligations.lean ====
section
/-! DEFINITION. The statements for the provers, from the numbered rules of spec/. -/

open Sys2Proof Sys2Proof.Machine

/-! Reset, the step, and the encoding. -/

/-- R340: at power-up and after the reset access every piece of the core's state is at its reset value; the parameters do
not change. That the host's remaining accesses are kept is the model's choice (log 12). -/
def Obligations.ResetAccessGivesResetState : Prop :=
  AtReset State.reset ∧
  ∀ (s : State) (rest : List HostAccess), s.sub = none → s.inbox = .reset :: rest →
    ∃ t, step s = .next t ∧ AtReset t ∧ t.cfg = s.cfg ∧ t.inbox = rest

/-- The state after reset meets the invariant. That its parameters are legal rests on the P_BUF_MAX the model chooses for it
(log 3), inside the bound of R11. -/
def Obligations.ResetMeetsInvariant : Prop := Inv State.reset

/-- Words of 95_test_vectors.md and 30_encoding.md decode to the instructions they stand for. -/
def Obligations.SpecWordsDecode : Prop :=
  decodeCommand 0x00000401#32 = .ok (.rdb 4) ∧ decodeCommand 0x00000402#32 = .ok (.rds 4) ∧
  decodeCommand 0x00000204#32 = .ok (.rdr 2) ∧ decodeCommand 0x10000210#32 = .ok (.fixp 2 0 16) ∧
  decodeCommand 0x00000218#32 = .ok (.resd 2) ∧ decodeCommand 0x00100828#32 = .ok (.decor 8 16) ∧
  decodeCommand 0x00220020#32 = .ok (.subf 0 34) ∧ decodeCommand 0x00000032#32 = .ok .frame ∧
  decodeSubframeHeader 0x03#8 = .ok (.sfVerbatim true) ∧ decodeSubframeHeader 0x14#8 = .ok (.sfFixed2 false) ∧
  decodeSubframeHeader 0x42#8 = .ok (.sfLpc 1 false)

/-- A step runs the decoded instruction: a command word the host writes to CMD is run by exec, the access taken from the
host's list. -/
def Obligations.StepRunsIssuedCommand : Prop :=
  ∀ (s : State) (v : Word) (rest : List HostAccess) (i : Instr),
    s.sub = none → s.inbox = .writeRegister 0x00 v :: rest → v.toNat < 2 ^ 32 →
    decode (.command (v.setWidth 32)) = .ok i →
    step s = exec i { s with inbox := rest }

/-- A step runs the decoded subframe header that stands at the cursor of a waiting SUBF (log 1). -/
def Obligations.StepRunsWaitingHeader : Prop :=
  ∀ (s : State) (o : SubframeOperands) (b : Byte) (i : Instr),
    s.sub = some o → Stands s (uintBits 8 b.toNat) → decode (.subframeHeader b) = .ok i → step s = exec i s

/-- R101: a value written to CMD that is not the word of a well-formed command is IllegalCommand and changes nothing but
STATUS.CODE and STATUS.STICKY. -/
def Obligations.RefusedWordIsIllegalCommand : Prop :=
  ∀ (s : State) (v : Word) (rest : List HostAccess),
    s.sub = none → s.snap = none → s.inbox = .writeRegister 0x00 v :: rest →
    (¬ ∃ i, i.wellFormed = true ∧ encode i = .command (v.setWidth 32) ∧ v.toNat < 2 ^ 32) →
    step s = .next { s with inbox := rest, code := .illegalCommand, sticky := true }

/-- No bit of an encoding is dropped: decoding the encoding of any instruction gives it back. -/
def Obligations.DecodeOfEncode : Prop := ∀ i : Instr, decode (encode i) = .ok i

/-- Each encoding has one meaning: what decodes is the encoding of what it decodes to. -/
def Obligations.EncodeOfDecode : Prop := ∀ (e : Encoding) (i : Instr), decode e = .ok i → encode i = e

/-- R102, R101: an operand outside its legal range makes the command IllegalCommand, and nothing else changes. -/
def Obligations.OutOfRangeOperandIsIllegal : Prop :=
  ∀ (i : Instr) (s : State), i.wellFormed = false → exec i s = .next (failed .illegalCommand s)

/-! Bit Cursor. -/

/-- R150: RDB. -/
def Obligations.RdbReadsUnsignedField : Prop :=
  ∀ (n : Byte) (s : State),
    (∀ v, n.toNat ≤ 64 → v < 2 ^ n.toNat → Bounded s → Stands s (uintBits n.toNat v) →
      exec (.rdb n) s =
        .next { moveBy n.toNat s with result := BitVec.ofNat 64 v, code := .ok, snap := none }) ∧
    (64 < n.toNat → exec (.rdb n) s = .next (failed .illegalCommand s)) ∧
    (n.toNat ≤ 64 → 8 * s.len.toNat < s.pos.toNat + n.toNat →
      exec (.rdb n) s = .next (failed .outOfData s))

/-- R151: RDS; a width of 0 gives 0 and consumes nothing. -/
def Obligations.RdsReadsSignedField : Prop :=
  ∀ (n : Byte) (s : State),
    (n.toNat = 0 → exec (.rds n) s = .next { s with result := 0, code := .ok, snap := none }) ∧
    (∀ v : Int, 1 ≤ n.toNat → n.toNat ≤ 64 → InRange v n.toNat → Bounded s → Stands s (sintBits n.toNat v) →
      exec (.rds n) s =
        .next { moveBy n.toNat s with result := BitVec.ofInt 64 v, code := .ok, snap := none }) ∧
    (64 < n.toNat → exec (.rds n) s = .next (failed .illegalCommand s)) ∧
    (1 ≤ n.toNat → n.toNat ≤ 64 → 8 * s.len.toNat < s.pos.toNat + n.toNat →
      exec (.rds n) s = .next (failed .outOfData s))

/-- R152: RDU; a buffer with no stop bit left is MalformedStream. -/
def Obligations.RduReadsUnaryCode : Prop :=
  ∀ s : State,
    (∀ q, Bounded s → Stands s (unaryBits s.cfg.unaryStop q) →
      exec .rdu s = .next { moveBy (q + 1) s with result := BitVec.ofNat 64 q, code := .ok, snap := none }) ∧
    (bitsAt s.buf s.pos.toNat (List.replicate (8 * s.len.toNat - s.pos.toNat) (!s.cfg.unaryStop)) = true →
      exec .rdu s = .next (failed .malformedStream s))

/-- R153: RDR reads every Rice code of a 64-bit value; a code cut in its unary part, or whose
quotient is too large for 64 bits, is MalformedStream, one cut in its remainder OutOfData. -/
def Obligations.RdrReadsRiceCode : Prop :=
  ∀ (k : Byte) (s : State),
    (∀ v : Int, k.toNat ≤ 30 → FitsEntry v → Bounded s → Stands s (riceBits s.cfg.unaryStop k.toNat v) →
      exec (.rdr k) s =
        .next { moveBy (riceBits s.cfg.unaryStop k.toNat v).length s with
          result := BitVec.ofInt 64 v, code := .ok, snap := none }) ∧
    (30 < k.toNat → exec (.rdr k) s = .next (failed .illegalCommand s)) ∧
    (k.toNat ≤ 30 →
      bitsAt s.buf s.pos.toNat (List.replicate (8 * s.len.toNat - s.pos.toNat) (!s.cfg.unaryStop)) = true →
      exec (.rdr k) s = .next (failed .malformedStream s)) ∧
    (∀ q, k.toNat ≤ 30 → q < 2 ^ (64 - k.toNat) → Bounded s → Stands s (unaryBits s.cfg.unaryStop q) →
      8 * s.len.toNat < s.pos.toNat + q + 1 + k.toNat →
      exec (.rdr k) s = .next (failed .outOfData s)) ∧
    (∀ q, k.toNat ≤ 30 → 2 ^ (64 - k.toNat) ≤ q → Bounded s → Stands s (unaryBits s.cfg.unaryStop q) →
      exec (.rdr k) s = .next (failed .malformedStream s))

/-- R154: ALN. -/
def Obligations.AlnAlignsToByte : Prop :=
  ∀ s : State,
    (s.pos.toNat % 8 = 0 → exec .aln s = .next { s with code := .ok, snap := none }) ∧
    (s.pos.toNat % 8 ≠ 0 → Bounded s → s.pos.toNat ≤ 8 * s.len.toNat →
      (cellGet s.buf (s.pos.toNat / 8)).isSome = true →
      exec .aln s = .next { moveBy (8 - s.pos.toNat % 8) s with code := .ok, snap := none })

/-- R155, R156, R157: GC8, GC16 and CRCR. -/
def Obligations.CrcCommandsReadAndReset : Prop :=
  ∀ s : State,
    exec .gc8 s = .next { s with result := s.crc8.setWidth 64, code := .ok, snap := none } ∧
    exec .gc16 s = .next { s with result := s.crc16.setWidth 64, code := .ok, snap := none } ∧
    exec .crcr s = .next { s with crc8 := 0, crc16 := 0, code := .ok, snap := none }

/-- The frame of the eight Bit Cursor commands (R50). -/
def Obligations.CursorCommandsFrame : Prop :=
  ∀ (i : Instr) (s t : State), isCursorCommand i = true → exec i s = .next t →
    t = { s with pos := t.pos, crc8 := t.crc8, crc16 := t.crc16, result := t.result, code := t.code,
                 sticky := t.sticky, snap := none } ∧
    (i = .gc8 ∨ i = .gc16 ∨ i = .crcr → t.pos = s.pos) ∧
    (i = .gc8 ∨ i = .gc16 → t.crc8 = s.crc8 ∧ t.crc16 = s.crc16) ∧
    (i = .aln ∨ i = .crcr → t.result = s.result)

/-- R160, R161, R164: a byte string followed by its CRC-8, or by its CRC-16 high byte first, leaves the accumulator 0. Derived
from the same engines (R264, R272 speak of single bits): two byte strings that differ in one byte have different CRCs. -/
def Obligations.CrcResidueAndDetection : Prop :=
  (∀ bytes : List Byte,
    (bytes ++ [bytes.foldl crc8Byte 0]).foldl crc8Byte 0 = 0 ∧
    (bytes ++ [(bytes.foldl crc16Byte 0).extractLsb' 8 8, (bytes.foldl crc16Byte 0).extractLsb' 0 8]).foldl
      crc16Byte 0 = 0) ∧
  (∀ (before after : List Byte) (b b' : Byte) (c8 : BitVec 8) (c16 : BitVec 16), b ≠ b' →
    (before ++ b :: after).foldl crc8Byte c8 ≠ (before ++ b' :: after).foldl crc8Byte c8 ∧
    (before ++ b :: after).foldl crc16Byte c16 ≠ (before ++ b' :: after).foldl crc16Byte c16)

/-! Predictor Engine. -/

/-- R180, R181: FIXP rebuilds the block from its warm-up samples and residuals, with the coefficients R181 writes. -/
def Obligations.FixpReconstructsBlock : Prop :=
  ∀ (order c w : Byte) (warmup residuals : List Int) (s : State),
    (Instr.fixp order c w).wellFormed = true → NblkReady s →
    warmup.length = order.toNat → warmup.length + residuals.length = nblkOf s →
    holdsAt s.smp (smpAddress c.toNat 0) warmup = true → holdsAt s.res 0 residuals = true →
    (∀ r ∈ residuals, FitsEntry r) →
    (∀ v ∈ rebuild (fixedCoefficients order.toNat) 0 warmup residuals, InRange v w.toNat) →
    ∃ t, exec (.fixp order c w) s = .next t ∧
      t = { s with smp := t.smp, code := .ok, snap := none } ∧
      holdsAt t.smp (smpAddress c.toNat 0) (rebuild (fixedCoefficients order.toNat) 0 warmup residuals) = true ∧
      SameOutside s.smp t.smp (smpAddress c.toNat order.toNat) residuals.length

/-- R182 to R185: LPCP rebuilds the block with the coefficients QLP[0..order-1], the newest sample's first, and the floor
shift by SF_SHIFT. -/
def Obligations.LpcpReconstructsBlock : Prop :=
  ∀ (order c w : Byte) (warmup residuals : List Int) (s : State),
    (Instr.lpcp order c w).wellFormed = true → NblkReady s →
    RegistersDefined s (0x34 :: (List.range order.toNat).map (0x40 + ·)) → 0 ≤ s.sf.shift.toInt →
    warmup.length = order.toNat → warmup.length + residuals.length = nblkOf s →
    holdsAt s.smp (smpAddress c.toNat 0) warmup = true → holdsAt s.res 0 residuals = true →
    (∀ r ∈ residuals, FitsEntry r) →
    (∀ v ∈ rebuild (coefficientsOf s order.toNat) s.sf.shift.toInt.toNat warmup residuals, InRange v w.toNat) →
    ∃ t, exec (.lpcp order c w) s = .next t ∧
      t = { s with smp := t.smp, code := .ok, snap := none } ∧
      holdsAt t.smp (smpAddress c.toNat 0)
        (rebuild (coefficientsOf s order.toNat) s.sf.shift.toInt.toNat warmup residuals) = true ∧
      SameOutside s.smp t.smp (smpAddress c.toNat order.toNat) residuals.length

/-- R42: FIXP, LPCP, RESD, SUBF and DECOR are IllegalCommand when NBLK is outside 1..65535, and change nothing else; so is a
subframe header in a waiting SUBF, whose operands it checks first (the model's form, log 1). An NBLK that nothing has written since reset holds its reset
value 0, and reading it is recorded as a model fault too (the model's choice, log 4). -/
def Obligations.NblkOutOfRangeIsIllegal : Prop :=
  ∀ (i : Instr) (s : State), LeftUndef s 0x21 = false → nblkOf s = 0 ∨ 65535 < nblkOf s → i.wellFormed = true →
    ((∃ order c w, i = .fixp order c w) ∨ (∃ order c w, i = .lpcp order c w) ∨ (∃ order, i = .resd order) ∨
        (∃ c bps, i = .subf c bps) ∨ (∃ a bps, i = .decor a bps) →
      exec i s = .next (failed .illegalCommand { s with undefRead := s.undefRead || s.undef.getLsbD 0x21 })) ∧
    (∀ o, isSubframeHeader i = true → s.sub = some o →
      ((Instr.subf o.channel o.bps).wellFormed = true →
        exec i s =
          .next (failed .illegalCommand { s with sub := none, undefRead := s.undefRead || s.undef.getLsbD 0x21 })) ∧
      ((Instr.subf o.channel o.bps).wellFormed = false →
        exec i s = .next (failed .illegalCommand { s with sub := none })))

/-- R188: an order above the block size, or a warm-up sample outside the width, makes FIXP and LPCP IllegalCommand; nothing
else changes. -/
def Obligations.PredictorsRefuseBadInputs : Prop :=
  ∀ (i : Instr) (order c w : Byte) (s : State), i = .fixp order c w ∨ i = .lpcp order c w → i.wellFormed = true →
    NblkReady s →
    (nblkOf s < order.toNat → exec i s = .next (failed .illegalCommand s)) ∧
    (∀ warmup : List Int, order.toNat ≤ nblkOf s →
      warmup.length = order.toNat → holdsAt s.smp (smpAddress c.toNat 0) warmup = true →
      (∀ v ∈ warmup, FitsEntry v) → (∃ v ∈ warmup, ¬ InRange v w.toNat) →
      exec i s = .next (failed .illegalCommand s))

/-- R186: where some sample does not fit the width, FIXP and LPCP end with MalformedStream and SMP[c][order..NBLK-1] is
UNDEF; every other entry is kept. -/
def Obligations.SampleOutsideWidthIsMalformed : Prop :=
  ∀ (i : Instr) (order c w : Byte) (coefficients : List Int) (shift : Nat) (warmup residuals : List Int) (s : State),
    (i = .fixp order c w ∧ coefficients = fixedCoefficients order.toNat ∧ shift = 0) ∨
      (i = .lpcp order c w ∧ coefficients = coefficientsOf s order.toNat ∧ s.sf.shift.toInt = shift) →
    i.wellFormed = true → NblkReady s →
    (i = .lpcp order c w → RegistersDefined s (0x34 :: (List.range order.toNat).map (0x40 + ·))) →
    warmup.length = order.toNat → warmup.length + residuals.length = nblkOf s →
    holdsAt s.smp (smpAddress c.toNat 0) warmup = true → holdsAt s.res 0 residuals = true →
    (∀ v ∈ warmup, InRange v w.toNat) → (∀ r ∈ residuals, FitsEntry r) →
    (∃ v ∈ rebuild coefficients shift warmup residuals, ¬ InRange v w.toNat) →
    ∃ t, exec i s = .next t ∧ t = { failed .malformedStream s with smp := t.smp } ∧
      ErasedRange s.smp t.smp (smpAddress c.toNat order.toNat) residuals.length

/-- R185: a negative SF_SHIFT makes LPCP MalformedStream before any sample is computed. -/
def Obligations.NegativeShiftIsMalformed : Prop :=
  ∀ (order c w : Byte) (warmup : List Int) (s : State),
    (Instr.lpcp order c w).wellFormed = true → NblkReady s → RegistersDefined s [0x34] → s.sf.shift.toInt < 0 →
    warmup.length = order.toNat → order.toNat ≤ nblkOf s →
    holdsAt s.smp (smpAddress c.toNat 0) warmup = true → (∀ v ∈ warmup, InRange v w.toNat) →
    ∃ t, exec (.lpcp order c w) s = .next t ∧ t = { failed .malformedStream s with smp := t.smp } ∧
      ErasedRange s.smp t.smp (smpAddress c.toNat order.toNat) (nblkOf s - order.toNat)

/-- R187: FIXP with order 0 writes `SMP[c][i] = RES[i]` for every i < NBLK when each fits w. -/
def Obligations.FixpOrderZeroCopiesResiduals : Prop :=
  ∀ (c w : Byte) (residuals : List Int) (s : State),
    (Instr.fixp 0 c w).wellFormed = true → NblkReady s → residuals.length = nblkOf s →
    holdsAt s.res 0 residuals = true → (∀ r ∈ residuals, InRange r w.toNat) →
    ∃ t, exec (.fixp 0 c w) s = .next t ∧ t.code = .ok ∧
      ∀ i, i < nblkOf s → cellGet t.smp (smpAddress c.toNat i) = cellGet s.res i

/-- R189: the predictors write nothing but SMP[c][order..NBLK-1] and STATUS, never move the cursor, and read nothing but
NBLK, SF_SHIFT and QLP (LPCP), RES and SMP[c]: two states that agree on these, and on which of the registers a failed command
has left UNDEF, give the same code and the same channel. The record of a model fault may be set (log 4). -/
def Obligations.PredictorsFrame : Prop :=
  ∀ (i : Instr) (order c w : Byte) (s t : State), i = .fixp order c w ∨ i = .lpcp order c w →
    exec i s = .next t →
    t = { s with smp := t.smp, code := t.code, sticky := t.sticky, undefRead := t.undefRead, snap := none } ∧
    SameOutside s.smp t.smp (smpAddress c.toNat order.toNat) (nblkOf s - order.toNat) ∧
    (∀ s' : State, nblkOf s' = nblkOf s → (i = .lpcp order c w → s'.sf.shift = s.sf.shift ∧ s'.qlp = s.qlp) →
      (∀ n, n = 0x21 ∨ (i = .lpcp order c w ∧ (n = 0x34 ∨ (0x40 ≤ n ∧ n ≤ 0x5F))) → LeftUndef s' n = LeftUndef s n) →
      (∀ x, cellGet s'.res x = cellGet s.res x) →
      (∀ j, j < 65536 → cellGet s'.smp (smpAddress c.toNat j) = cellGet s.smp (smpAddress c.toNat j)) →
      ∃ t', exec i s' = .next t' ∧ t'.code = t.code ∧
        ∀ j, j < 65536 → cellGet t'.smp (smpAddress c.toNat j) = cellGet t.smp (smpAddress c.toNat j))

/-- R183: the sum LPCP accumulates for sample i, over QLP[0..order-1] and the `order` samples of 33 signed bits before it
(oldest first in `window`), is exact and at most 2^52 in magnitude. -/
def Obligations.LpcSumFitsAccumulator : Prop :=
  ∀ (c i order : Nat) (window : List Int) (s : State), order ≤ 32 → order ≤ i →
    RegistersDefined s ((List.range order).map (0x40 + ·)) → window.length = order →
    holdsAt s.smp (smpAddress c (i - order)) window = true → (∀ x ∈ window, InRange x 33) →
    ∃ acc, weightedHistory readQlp c i order 0 0 s = .ok acc s ∧
      acc = weigh (coefficientsOf s order) window.reverse ∧ -(2 ^ 52) ≤ acc ∧ acc ≤ 2 ^ 52

/-! Residual Decoder. -/

/-- R200, R203, R204: RESD decodes every residual section into RES, in stream order. -/
def Obligations.ResdDecodesEncodedSection : Prop :=
  ∀ (order : Byte) (x : SectionCode) (s : State),
    (Instr.resd order).wellFormed = true → NblkReady s → x.legal (nblkOf s) order.toNat = true → Bounded s →
    Stands s (x.bits s.cfg.unaryStop) →
    ∃ t, exec (.resd order) s = .next t ∧
      t = { moveBy (x.bits s.cfg.unaryStop).length s with res := t.res, code := .ok, snap := none } ∧
      holdsAt t.res 0 x.residuals = true ∧ SameOutside s.res t.res 0 x.residuals.length

/-- R200 to R202, R150, R153: a reserved method, a block the partition count does not divide and a partition smaller than the
order are MalformedStream; so is a Rice code cut in its unary part or whose quotient is too large; a section cut anywhere else
is OutOfData. RES[0..NBLK-order-1] is then UNDEF. -/
def Obligations.ResdRejectsBadSections : Prop :=
  ∀ (order : Byte) (code : Code) (s : State), (Instr.resd order).wellFormed = true → NblkReady s → Bounded s →
    (code = .malformedStream ∧ ∃ bad, BadSectionStart (nblkOf s) order.toNat bad ∧ Stands s bad) ∨
    (∃ (x : SectionCode) (before : List BitField) (f : BitField), x.legal (nblkOf s) order.toNat = true ∧
      ((∃ k, CutInside s (x.fields s.cfg.unaryStop) before f k ∧ code = f.kind.cutCode) ∨
        (QuotientTooLarge s (x.fields s.cfg.unaryStop) before f ∧ code = .malformedStream))) →
    ∃ t, exec (.resd order) s = .next t ∧ t = { failed code s with res := t.res } ∧
      ErasedRange s.res t.res 0 (nblkOf s - order.toNat)

/-- The frame of RESD (R50, R204): entries from NBLK - order up are not written. The record of a model fault may be set
(log 4). -/
def Obligations.ResdFrame : Prop :=
  ∀ (order : Byte) (s t : State), exec (.resd order) s = .next t →
    t = { s with pos := t.pos, crc8 := t.crc8, crc16 := t.crc16, res := t.res, code := t.code, sticky := t.sticky,
                 undefRead := t.undefRead, snap := none } ∧
    SameOutside s.res t.res 0 (nblkOf s - order.toNat)

/-! Subframe Decoder. -/

/-- Each of the eight subframe headers, run as an instruction in a waiting SUBF (the model's form, log 1), decodes every
subframe of its kind as SUBF does (R220, R226 to R232). -/
def Obligations.HeaderDecodesEncodedSubframe : Prop :=
  ∀ (i : Instr) (x : SubframeCode) (o : SubframeOperands) (s : State),
    s.sub = some o → (Instr.subf o.channel o.bps).wellFormed = true → NblkReady s →
    o.bps.toNat ≤ s.cfg.maxSubframeBps → x.legal s.cfg.maxLpcOrder (nblkOf s) o.bps.toNat = true → Bounded s →
    Stands s (x.bits s.cfg.unaryStop o.bps.toNat) → x.header = .ok i →
    ∃ t, exec i s = .next t ∧ AfterSubframe x o.channel.toNat o.bps.toNat (nblkOf s) { s with sub := none } t

/-- R220, R226 to R232: SUBF decodes every subframe that stands at the cursor. -/
def Obligations.SubfDecodesEncodedSubframe : Prop :=
  ∀ (c bps : Byte) (x : SubframeCode) (s : State),
    (Instr.subf c bps).wellFormed = true → NblkReady s →
    bps.toNat ≤ s.cfg.maxSubframeBps → x.legal s.cfg.maxLpcOrder (nblkOf s) bps.toNat = true → Bounded s →
    Stands s (x.bits s.cfg.unaryStop bps.toNat) →
    ∃ t, exec (.subf c bps) s = .next t ∧ AfterSubframe x c.toNat bps.toNat (nblkOf s) s t

/-- R220, R221: SUBF with a legal header byte at the cursor is that header run in a waiting SUBF (log 1). -/
def Obligations.SubfIsItsHeader : Prop :=
  ∀ (c bps b : Byte) (i : Instr) (s : State),
    s.sub = none → Bounded s → Stands s (uintBits 8 b.toNat) → decode (.subframeHeader b) = .ok i →
    exec (.subf c bps) s = exec i { s with sub := some { channel := c, bps := bps } }

/-- R220 to R227, R137, R201, R202: SUBF's refusals in the order it makes them: a depth above P_MAX_SUBFRAME_BPS before any bit is read, a
padding bit of 1, a reserved type code, an LPC order above P_MAX_LPC_ORDER, a wasted-bits code with no stop bit, a wasted count
that leaves no bits, an order above NBLK, an LPC precision field of 15, a negative LPC shift, and a predicted sample outside
the depth; a residual section with a reserved method, a partition count that does not divide NBLK or a partition smaller than
the order; and, wherever the buffer ends, a cut field (OutOfData), a unary code with no stop bit and a Rice quotient too large
(MalformedStream). The outputs of SUBF are then UNDEF. -/
def Obligations.SubfRejectsReservedHeaders : Prop :=
  ∀ (c bps : Byte) (s : State), (Instr.subf c bps).wellFormed = true → NblkReady s →
    (s.cfg.maxSubframeBps < bps.toNat →
      ∃ u, exec (.subf c bps) s = .next u ∧ SubfFailed .unsupportedStream c.toNat s u) ∧
    (bps.toNat ≤ s.cfg.maxSubframeBps → Bounded s →
      (Stands s [true] → ∃ u, exec (.subf c bps) s = .next u ∧ SubfFailed .malformedStream c.toNat s u) ∧
      (∀ t, (2 ≤ t ∧ t ≤ 7) ∨ (13 ≤ t ∧ t ≤ 31) → Stands s (false :: uintBits 6 t) →
        ∃ u, exec (.subf c bps) s = .next u ∧ SubfFailed .malformedStream c.toNat s u) ∧
      (∀ t, 32 ≤ t → t < 64 → s.cfg.maxLpcOrder < t - 31 → Stands s (false :: uintBits 6 t) →
        ∃ u, exec (.subf c bps) s = .next u ∧ SubfFailed .unsupportedStream c.toNat s u) ∧
      (∀ t wasted, t ≤ 1 ∨ (8 ≤ t ∧ t ≤ 12) ∨ (32 ≤ t ∧ t < 64 ∧ t - 31 ≤ s.cfg.maxLpcOrder) →
        (Stands s (false :: uintBits 6 t ++ [true]) →
          bitsAt s.buf (s.pos.toNat + 8)
            (List.replicate (8 * s.len.toNat - (s.pos.toNat + 8)) (!s.cfg.unaryStop)) = true →
          ∃ u, exec (.subf c bps) s = .next u ∧ SubfFailed .malformedStream c.toNat s u) ∧
        (bps.toNat ≤ wasted → Stands s (subframeStart s.cfg.unaryStop t wasted) →
          ∃ u, exec (.subf c bps) s = .next u ∧ SubfFailed .malformedStream c.toNat s u)) ∧
      (∀ t wasted order, (8 ≤ t ∧ t ≤ 12 ∧ order = t - 8) ∨
          (32 ≤ t ∧ t < 64 ∧ order = t - 31 ∧ order ≤ s.cfg.maxLpcOrder) →
        wasted < bps.toNat → nblkOf s < order → Stands s (subframeStart s.cfg.unaryStop t wasted) →
        ∃ u, exec (.subf c bps) s = .next u ∧ SubfFailed .malformedStream c.toNat s u) ∧
      (∀ wasted (warmup : List Int), wasted < bps.toNat → 1 ≤ warmup.length → warmup.length ≤ 32 →
        warmup.length ≤ s.cfg.maxLpcOrder → warmup.length ≤ nblkOf s →
        (∀ v ∈ warmup, InRange v (bps.toNat - wasted)) →
        (Stands s (subframeStart s.cfg.unaryStop (31 + warmup.length) wasted ++
            warmup.flatMap (sintBits (bps.toNat - wasted)) ++ uintBits 4 15) →
          ∃ u, exec (.subf c bps) s = .next u ∧ SubfFailed .malformedStream c.toNat s u) ∧
        (∀ (p : Nat) (shift : Int), p < 15 → -16 ≤ shift → shift < 0 →
          Stands s (subframeStart s.cfg.unaryStop (31 + warmup.length) wasted ++
            warmup.flatMap (sintBits (bps.toNat - wasted)) ++ uintBits 4 p ++ sintBits 5 shift) →
          ∃ u, exec (.subf c bps) s = .next u ∧ SubfFailed .malformedStream c.toNat s u)) ∧
      (∀ x : SubframeCode, x.wasted < bps.toNat →
        x.body.fieldsLegal s.cfg.maxLpcOrder (nblkOf s) (bps.toNat - x.wasted) = true →
        (∃ v ∈ x.body.samples (nblkOf s), ¬ InRange v (bps.toNat - x.wasted)) →
        Stands s (x.bits s.cfg.unaryStop bps.toNat) →
        ∃ u, exec (.subf c bps) s = .next u ∧ SubfFailed .malformedStream c.toNat s u) ∧
      (∀ (x : SubframeCode) (start bad : List Bool), x.wasted < bps.toNat →
        x.body.fieldsLegal s.cfg.maxLpcOrder (nblkOf s) (bps.toNat - x.wasted) = true →
        x.body.beforeSection (bps.toNat - x.wasted) = some start → BadSectionStart (nblkOf s) x.body.order bad →
        Stands s (subframeStart s.cfg.unaryStop x.body.typeCode x.wasted ++ start ++ bad) →
        ∃ u, exec (.subf c bps) s = .next u ∧ SubfFailed .malformedStream c.toNat s u) ∧
      (∀ (x : SubframeCode) (before : List BitField) (f : BitField), x.wasted < bps.toNat →
        x.body.fieldsLegal s.cfg.maxLpcOrder (nblkOf s) (bps.toNat - x.wasted) = true →
        (∀ k, CutInside s (x.fields s.cfg.unaryStop bps.toNat) before f k →
          ∃ u, exec (.subf c bps) s = .next u ∧ SubfFailed f.kind.cutCode c.toNat s u) ∧
        (QuotientTooLarge s (x.fields s.cfg.unaryStop bps.toNat) before f →
          ∃ u, exec (.subf c bps) s = .next u ∧ SubfFailed .malformedStream c.toNat s u)))

/-- R229: after a successful SUBF every sample is `v × 2^wasted` with v inside the effective depth, so it is inside the
subframe's depth and its low wasted bits are 0. -/
def Obligations.SubfSamplesFitTheirDepth : Prop :=
  ∀ (c bps : Byte) (s t : State), exec (.subf c bps) s = .next t → t.code = .ok →
    ∀ i, i < nblkOf s → ∃ v : Int,
      InRange v (bps.toNat - t.sf.wasted.toNat) ∧
      cellGet t.smp (smpAddress c.toNat i) = some (wordOfInt (v * 2 ^ t.sf.wasted.toNat)) ∧
      InRange (v * 2 ^ t.sf.wasted.toNat) bps.toNat

/-- The frame of SUBF (R50, R232), and of a subframe header in a waiting SUBF, whose waiting field it may also write (the
model's form, log 1). The record of a model fault may be set (log 4). -/
def Obligations.SubframesFrame : Prop :=
  ∀ (i : Instr) (c : Nat) (s t : State),
    (∃ bps ch, i = .subf ch bps ∧ c = ch.toNat) ∨
      (isSubframeHeader i = true ∧ ∃ o, s.sub = some o ∧ c = o.channel.toNat) →
    exec i s = .next t →
    t = { s with pos := t.pos, crc8 := t.crc8, crc16 := t.crc16, sf := t.sf, qlp := t.qlp, undef := t.undef,
                 spoiled := t.spoiled, undefRead := t.undefRead, res := t.res, smp := t.smp, code := t.code,
                 sticky := t.sticky, freeCtr := t.freeCtr, sub := t.sub, snap := none } ∧
    SameOutside s.res t.res 0 (nblkOf s) ∧ SameOutside s.smp t.smp (smpAddress c 0) (nblkOf s) ∧
    (∀ n, ¬ (0x30 ≤ n ∧ n ≤ 0x34) → ¬ (0x40 ≤ n ∧ n ≤ 0x5F) →
      t.undef.getLsbD n = s.undef.getLsbD n ∧ t.spoiled.getLsbD n = s.spoiled.getLsbD n)

/-- A subframe header run while no SUBF waits for one is refused by name (the model's choice, log 1). -/
def Obligations.HeaderWithoutSubframeIsRefused : Prop :=
  ∀ (i : Instr) (s : State), isSubframeHeader i = true → s.sub = none → exec i s = .refused .noSubframe

/-! Channel Decorrelator. -/

/-- R241: DECOR of an independent assignment reads and writes nothing. -/
def Obligations.DecorIndependentKeepsChannels : Prop :=
  ∀ (a bps : Byte) (s : State), (Instr.decor a bps).wellFormed = true → NblkReady s → a.toNat ≤ 7 →
    exec (.decor a bps) s = .next { s with code := .ok, snap := none }

/-- R242, R243: DECOR rewrites SMP[0] and SMP[1] with the left and right samples those rules write. -/
def Obligations.DecorReconstructsPairs : Prop :=
  ∀ (a bps : Byte) (xs ys : List Int) (s : State),
    (Instr.decor a bps).wellFormed = true → NblkReady s → 8 ≤ a.toNat →
    xs.length = nblkOf s → ys.length = nblkOf s →
    holdsAt s.smp (smpAddress 0 0) xs = true → holdsAt s.smp (smpAddress 1 0) ys = true →
    (∀ v ∈ xs, FitsEntry v) → (∀ v ∈ ys, FitsEntry v) →
    (∀ p ∈ List.zipWith (leftRight a.toNat) xs ys, InRange p.1 bps.toNat ∧ InRange p.2 bps.toNat) →
    ∃ t, exec (.decor a bps) s = .next t ∧
      t = { s with smp := t.smp, code := .ok, snap := none } ∧
      holdsAt t.smp (smpAddress 0 0) ((List.zipWith (leftRight a.toNat) xs ys).map Prod.fst) = true ∧
      holdsAt t.smp (smpAddress 1 0) ((List.zipWith (leftRight a.toNat) xs ys).map Prod.snd) = true ∧
      (∀ x, OutsideBlock 0 (nblkOf s) x → OutsideBlock 1 (nblkOf s) x → cellGet t.smp x = cellGet s.smp x)

/-- R244: DECOR 10 applied to mid = (L + R) >> 1 and side = L - R gives back every pair (L, R) inside the depth. -/
def Obligations.MidSideExactRecovery : Prop :=
  ∀ (bps : Byte) (ls rs : List Int) (s : State),
    1 ≤ bps.toNat → bps.toNat ≤ 32 → NblkReady s → ls.length = nblkOf s → rs.length = nblkOf s →
    (∀ v ∈ ls, InRange v bps.toNat) → (∀ v ∈ rs, InRange v bps.toNat) →
    holdsAt s.smp (smpAddress 0 0) (List.zipWith (fun l r : Int => (l + r) >>> (1 : Nat)) ls rs) = true →
    holdsAt s.smp (smpAddress 1 0) (List.zipWith (fun l r : Int => l - r) ls rs) = true →
    ∃ t, exec (.decor 10 bps) s = .next t ∧ t.code = .ok ∧
      holdsAt t.smp (smpAddress 0 0) ls = true ∧ holdsAt t.smp (smpAddress 1 0) rs = true

/-- R245: a pair outside the nominal depth is MalformedStream, with SMP[0] and SMP[1] of the block UNDEF (R303); every other
entry is kept. -/
def Obligations.DecorOutsideDepthIsMalformed : Prop :=
  ∀ (a bps : Byte) (xs ys : List Int) (s : State),
    (Instr.decor a bps).wellFormed = true → NblkReady s → 8 ≤ a.toNat →
    xs.length = nblkOf s → ys.length = nblkOf s →
    holdsAt s.smp (smpAddress 0 0) xs = true → holdsAt s.smp (smpAddress 1 0) ys = true →
    (∀ v ∈ xs, FitsEntry v) → (∀ v ∈ ys, FitsEntry v) →
    (∃ p ∈ List.zipWith (leftRight a.toNat) xs ys, ¬ (InRange p.1 bps.toNat ∧ InRange p.2 bps.toNat)) →
    ∃ t, exec (.decor a bps) s = .next t ∧ t = { failed .malformedStream s with smp := t.smp } ∧
      (∀ i, i < nblkOf s → cellGet t.smp (smpAddress 0 i) = none ∧ cellGet t.smp (smpAddress 1 i) = none) ∧
      (∀ x, OutsideBlock 0 (nblkOf s) x → OutsideBlock 1 (nblkOf s) x → cellGet t.smp x = cellGet s.smp x)

/-- The frame of DECOR (R50, R240): channels 2..7 and every entry past the block are never touched. The record of a model
fault may be set (log 4). -/
def Obligations.DecorFrame : Prop :=
  ∀ (a bps : Byte) (s t : State), exec (.decor a bps) s = .next t →
    t = { s with smp := t.smp, code := t.code, sticky := t.sticky, undefRead := t.undefRead, snap := none } ∧
    (∀ x, OutsideBlock 0 (nblkOf s) x → OutsideBlock 1 (nblkOf s) x → cellGet t.smp x = cellGet s.smp x)

/-! Frame Decoder. -/

/-- R260 to R268: FHDR accepts every legal header that agrees with StreamInfo and writes the FH registers from it,
together; a FHDR that does not end with OK leaves them as they were. -/
def Obligations.FhdrAcceptsEncodedHeader : Prop :=
  (∀ (h : HeaderCode) (s : State),
    s.siValid = true → RegistersDefined s [0x10, 0x11, 0x12, 0x15] → s.pos.toNat % 8 = 0 → h.legal s = true →
    Bounded s → Stands s h.bits →
    ∃ t, exec .fhdr s = .next t ∧
      t = { s with pos := BitVec.ofNat 65 (s.pos.toNat + h.bits.length), crc8 := 0,
                   crc16 := if s.cfg.crc16FromSync then (packBytes h.bits).foldl crc16Byte 0 else 0,
                   fh := h.registers s, undef := t.undef, code := .ok, snap := none } ∧
      (∀ n, t.undef.getLsbD n = (s.undef.getLsbD n && !decide (0x20 ≤ n ∧ n ≤ 0x27)))) ∧
  (∀ s t : State, exec .fhdr s = .next t → t.code ≠ .ok → t.fh = s.fh ∧ t.undef = s.undef)

/-- R260 to R266, R137, R272: FHDR's refusals, in the order it makes them: no valid StreamInfo, a cursor off a byte boundary,
a sync mismatch, a reserved bit or code as soon as its field is read, a bad byte of the number, a block size of 65536, a header
cut by the end of the buffer, a CRC-8 mismatch, a header that disagrees with StreamInfo, a depth above P_MAX_BPS. Each changes
nothing but CODE and STICKY. -/
def Obligations.FhdrRefusesBadStarts : Prop :=
  ∀ s : State,
    (s.siValid = false → exec .fhdr s = .next (failed .illegalCommand s)) ∧
    (s.siValid = true → s.pos.toNat % 8 ≠ 0 → exec .fhdr s = .next (failed .malformedStream s)) ∧
    (s.siValid = true → s.pos.toNat % 8 = 0 → Bounded s →
      (∀ sync, sync < 2 ^ 14 → sync ≠ 0x3FFE → Stands s (uintBits 14 sync) →
        exec .fhdr s = .next (failed (if s.scan then .resync else .malformedStream) s)) ∧
      (∀ h : HeaderCode, h.codesLegal = true →
        (∀ bits ∈ h.reservedStarts, Stands s bits → exec .fhdr s = .next (failed .malformedStream s)) ∧
        (∀ b, (0x80 ≤ b ∧ b < 0xC0) ∨ b = 0xFF → Stands s (h.fixedBits ++ uintBits 8 b) →
          exec .fhdr s = .next (failed .malformedStream s)) ∧
        (h.numberLegal = true →
          (∀ k b, k < h.extra → b < 0x80 ∨ (0xC0 ≤ b ∧ b < 0x100) →
            Stands s (h.fixedBits ++ h.numberBits.take (8 * (k + 1)) ++ uintBits 8 b) →
            exec .fhdr s = .next (failed .malformedStream s)) ∧
          (h.blockCode = 7 → Stands s (h.fixedBits ++ h.numberBits ++ uintBits 16 0xFFFF) →
            exec .fhdr s = .next (failed .malformedStream s)))) ∧
      (∀ h : HeaderCode, RegistersDefined s [0x10, 0x11, 0x12, 0x15] → h.fieldsLegal = true →
        (∀ k, k < h.bits.length → 8 * s.len.toNat = s.pos.toNat + k → Stands s (h.bits.take k) →
          exec .fhdr s = .next (failed .outOfData s)) ∧
        (∀ crc, crc < 2 ^ 8 → crc ≠ h.crc.toNat → Stands s (h.bodyBits ++ uintBits 8 crc) →
          exec .fhdr s = .next (failed .malformedStream s)) ∧
        (Stands s h.bits → ¬ h.Agrees s → exec .fhdr s = .next (failed .malformedStream s)) ∧
        (Stands s h.bits → h.Agrees s → s.cfg.maxBps < s.si.bps.toNat →
          exec .fhdr s = .next (failed .unsupportedStream s))))

/-- R270: FFTR aligns, compares the 16-bit field with the CRC-16 before it, and sets VALID; a cut field is OutOfData with
the cursor restored. -/
def Obligations.FftrVerifiesCrc : Prop :=
  ∀ (padding : List Bool) (s : State), padding.length = (8 - s.pos.toNat % 8) % 8 → Bounded s →
    (∀ v, v < 2 ^ 16 → Stands s (padding ++ uintBits 16 v) →
      (v = (moveBy padding.length s).crc16.toNat →
        exec .fftr s = .next { moveBy (padding.length + 16) s with valid := true, code := .ok, snap := none }) ∧
      (v ≠ (moveBy padding.length s).crc16.toNat →
        exec .fftr s =
          .next { moveBy (padding.length + 16) s with valid := false, code := .integrityError, snap := none })) ∧
    (Stands s padding → 8 * s.len.toNat < s.pos.toNat + padding.length + 16 →
      exec .fftr s = .next { failed .outOfData s with valid := false })

/-- R280: FRAME decodes every legal frame: cursor past it, FH and VALID set, every channel's samples in SMP; a frame whose
CRC-16 field does not match is delivered with IntegrityError. -/
def Obligations.FrameDecodesEncodedFrame : Prop :=
  ∀ (x : FrameCode) (s : State),
    s.siValid = true → RegistersDefined s [0x10, 0x11, 0x12, 0x15] → s.pos.toNat % 8 = 0 → x.legal s = true →
    1 ≤ s.si.bps.toNat → Bounded s → Stands s (x.bits s) →
    ∃ t, exec .frame s = .next t ∧
      t.pos = BitVec.ofNat 65 (s.pos.toNat + (x.bits s).length) ∧ t.fh = x.header.registers s ∧
      t.code = (if x.crc = (x.expectedCrc s).toNat then .ok else .integrityError) ∧
      t.valid = decide (x.crc = (x.expectedCrc s).toNat) ∧ t.sticky = s.sticky ∧ t.result = s.result ∧
      (∀ c, (h : c < x.decoded.length) → holdsAt t.smp (smpAddress c 0) (x.decoded[c]'h) = true)

/-- R280: FRAME is FHDR, SUBF per channel, FFTR and DECOR, each the command of the same name; where all of them end well it
gives the state they give, and the first one that ends with a fatal code ends FRAME with that code (R285: at the end of the
buffer OutOfData). Inside FRAME no SUBF and no DECOR ends with IllegalCommand, its word check being skipped and its NBLK check
passing. -/
def Obligations.FrameIsItsSteps : Prop :=
  ∀ s : State,
    (∀ s1, exec .fhdr s = .next s1 →
      (s1.code.fatal = true → FrameEnds s s1.code) ∧
      (s1.code = .ok →
        (∀ c s2 s3, c < s1.fh.channels.toNat → SubframesRun s1.fh c 0 s1 s2 →
          exec (subframeOf s1.fh c) s2 = .next s3 → s3.code.fatal = true → s3.code ≠ .illegalCommand →
          FrameEnds s s3.code) ∧
        (∀ s2 s3, SubframesRun s1.fh s1.fh.channels.toNat 0 s1 s2 → exec .fftr s2 = .next s3 →
          (s3.code.fatal = true → FrameEnds s s3.code) ∧
          (s3.code.fatal = false → ∀ s4, exec (decorOf s1.fh) s3 = .next s4 →
            (s4.code = .ok → exec .frame s = .next { s4 with code := s3.code }) ∧
            (s4.code.fatal = true → s4.code ≠ .illegalCommand → FrameEnds s s4.code))))) ∧
    (s.siValid = true → s.pos.toNat = 8 * s.len.toNat → FrameEnds s .outOfData)

/-- The frames of FHDR, FFTR and FRAME (R50, R303): what each may write, and nothing else. A FRAME that does not end fatally
writes RES below NBLK and SMP[c][0..NBLK-1] of the frame's own channels only; neither FHDR nor FRAME marks or unmarks a register
outside FH, and for FRAME SF and QLP. The record of a model fault may be set (log 4). -/
def Obligations.FrameCommandsFrame : Prop :=
  ∀ s t : State,
    (exec .fhdr s = .next t →
      t = { s with pos := t.pos, crc8 := t.crc8, crc16 := t.crc16, fh := t.fh, undef := t.undef, code := t.code,
                   sticky := t.sticky, undefRead := t.undefRead, snap := none } ∧
      (∀ n, ¬ (0x20 ≤ n ∧ n ≤ 0x27) → t.undef.getLsbD n = s.undef.getLsbD n)) ∧
    (exec .fftr s = .next t →
      t = { s with pos := t.pos, crc8 := t.crc8, crc16 := t.crc16, valid := t.valid, code := t.code,
                   sticky := t.sticky, snap := none }) ∧
    (exec .frame s = .next t →
      t = { s with pos := t.pos, crc8 := t.crc8, crc16 := t.crc16, fh := t.fh, sf := t.sf, qlp := t.qlp,
                   undef := t.undef, spoiled := t.spoiled, undefRead := t.undefRead, res := t.res, smp := t.smp,
                   valid := t.valid, code := t.code, sticky := t.sticky, freeCtr := t.freeCtr, snap := none } ∧
      (∀ n, ¬ IsOutputRegister n →
        t.undef.getLsbD n = s.undef.getLsbD n ∧ t.spoiled.getLsbD n = s.spoiled.getLsbD n) ∧
      (t.code.fatal = false →
        t.spoiled = s.spoiled ∧
        (∀ x, nblkOf t ≤ x → cellGet t.res x = cellGet s.res x) ∧
        (∀ x, (∀ c, c < t.fh.channels.toNat → OutsideBlock c (nblkOf t) x) → cellGet t.smp x = cellGet s.smp x)))

/-! The whole machine. -/

/-- R302: whatever the instruction, a fatal end restores POS, CRC8, CRC16 and RESULT, sets STICKY, and leaves BUF, LEN,
CTRL and StreamInfo as they were. -/
def Obligations.FatalEndRestoresCursor : Prop :=
  ∀ (i : Instr) (s t : State), exec i s = .next t → t.code.fatal = true →
    t.pos = s.pos ∧ t.crc8 = s.crc8 ∧ t.crc16 = s.crc16 ∧ t.result = s.result ∧ t.sticky = true ∧
    t.len = s.len ∧ t.scan = s.scan ∧ t.si = s.si ∧ t.siValid = s.siValid ∧ (i ≠ .frame → t.fh = s.fh)

/-- R303: what each command leaves UNDEF when it ends with a fatal code other than IllegalCommand; after IllegalCommand
nothing is. -/
def Obligations.FatalEndMarksOutputs : Prop :=
  ∀ (i : Instr) (s t : State), exec i s = .next t → t.code.fatal = true →
    (t.code = .illegalCommand →
      t.res = s.res ∧ t.smp = s.smp ∧ t.undef = s.undef ∧ t.spoiled = s.spoiled ∧ t.valid = s.valid) ∧
    (t.code ≠ .illegalCommand →
      (isCursorCommand i = true ∨ i = .fhdr ∨ i = .fftr →
        t.res = s.res ∧ t.smp = s.smp ∧ t.undef = s.undef) ∧
      (∀ order c w, i = .fixp order c w ∨ i = .lpcp order c w →
        t.res = s.res ∧ t.undef = s.undef ∧
        ErasedRange s.smp t.smp (smpAddress c.toNat order.toNat) (nblkOf s - order.toNat)) ∧
      (∀ order, i = .resd order →
        t.smp = s.smp ∧ t.undef = s.undef ∧ ErasedRange s.res t.res 0 (nblkOf s - order.toNat)) ∧
      (∀ c bps, i = .subf c bps →
        ErasedRange s.res t.res 0 (nblkOf s) ∧ ErasedRange s.smp t.smp (smpAddress c.toNat 0) (nblkOf s) ∧
        (∀ n, (0x30 ≤ n ∧ n ≤ 0x34) ∨ (0x40 ≤ n ∧ n ≤ 0x5F) → registerRead t n = none ∧ LeftUndef t n = true)) ∧
      (∀ a bps, i = .decor a bps →
        t.res = s.res ∧ t.undef = s.undef ∧
        (∀ j, j < nblkOf s → cellGet t.smp (smpAddress 0 j) = none ∧ cellGet t.smp (smpAddress 1 j) = none) ∧
        (∀ x, OutsideBlock 0 (nblkOf s) x → OutsideBlock 1 (nblkOf s) x → cellGet t.smp x = cellGet s.smp x)) ∧
      (i = .frame →
        t.res = [] ∧ t.smp = [] ∧
        (∀ n, IsOutputRegister n → registerRead t n = none ∧ LeftUndef t n = true)))

/-- R304: only FFTR and FRAME end with IntegrityError; VALID is then 0 and STICKY is not set. -/
def Obligations.IntegrityErrorIsNonFatal : Prop :=
  ∀ (i : Instr) (s t : State), exec i s = .next t → t.code = .integrityError →
    (i = .fftr ∨ i = .frame) ∧ t.valid = false ∧ t.sticky = s.sticky

/-- R271: STATUS.VALID is 1 exactly when the last FFTR or FRAME to get past its word check and preconditions ended with OK;
no other command changes it. -/
def Obligations.ValidFlagFollowsFrames : Prop :=
  ∀ (i : Instr) (s t : State), exec i s = .next t →
    t.valid = if (i = .fftr ∨ i = .frame) ∧ t.code ≠ .illegalCommand then decide (t.code = .ok) else s.valid

/-- R74, R36, R35: no instruction writes BUF, LEN, CTRL, StreamInfo or the parameters, clears STICKY, or writes a RESULT that
is not its own; none leaves a command running. -/
def Obligations.InstructionsKeepHostState : Prop :=
  ∀ (i : Instr) (s t : State), exec i s = .next t →
    t.buf = s.buf ∧ t.len = s.len ∧ t.scan = s.scan ∧ t.si = s.si ∧ t.siValid = s.siValid ∧ t.cfg = s.cfg ∧
    t.inbox = s.inbox ∧ t.hostData = s.hostData ∧ t.snap = none ∧ (s.sticky = true → t.sticky = true) ∧
    (s.undefRead = true → t.undefRead = true) ∧ (t.code.fatal = true → t.sticky = true) ∧ (t.code.fatal = false → t.sticky = s.sticky) ∧
    (i ≠ .rdu → i ≠ .gc8 → i ≠ .gc16 → (∀ n, i ≠ .rdb n ∧ i ≠ .rds n ∧ i ≠ .rdr n) → t.result = s.result)

/-- R357: over a buffer whose bytes are all written, every command that needs no entry of another command ends with a
status code; no model fault stops it. RESD and SUBF need an NBLK that no failed FRAME has left UNDEF; marks are sound (an
invariant, R303). -/
def Obligations.StreamCommandsAlwaysEnd : Prop :=
  ∀ (i : Instr) (s : State), isStreamCommand i = true → BufferWritten s → Bounded s →
    s.pos.toNat ≤ 8 * s.len.toNat → MarksSound s →
    ((∃ order, i = .resd order) ∨ (∃ c bps, i = .subf c bps) → LeftUndef s 0x21 = false) →
    ∃ t, exec i s = .next t

/-- R284: FRAME reads only the bytes from the cursor on, StreamInfo, CTRL.SCAN and the parameters: two states that agree on these and on the cursor give the same code and cursor and, unless the
end is fatal, the same header and samples. -/
def Obligations.FramesAreIndependent : Prop :=
  ∀ s s' t : State, Bounded s → MarksSound s → MarksSound s' →
    s'.cfg = s.cfg → s'.len = s.len → s'.pos = s.pos → s'.si = s.si → s'.siValid = s.siValid → s'.scan = s.scan →
    (∀ a, s.pos.toNat / 8 ≤ a → a < s.len.toNat → cellGet s'.buf a = cellGet s.buf a) → exec .frame s = .next t →
    ∃ t', exec .frame s' = .next t' ∧ t'.code = t.code ∧ t'.pos = t.pos ∧
      (t.code.fatal = false →
        t'.fh = t.fh ∧ t'.valid = t.valid ∧ t'.crc8 = t.crc8 ∧ t'.crc16 = t.crc16 ∧
        ∀ c i, c < t.fh.channels.toNat → i < nblkOf t →
          cellGet t'.smp (smpAddress c i) = cellGet t.smp (smpAddress c i))

/-- R31, R32, R40, R48, R75: every step keeps the invariant, and the parameters (R340). -/
def Obligations.StepKeepsInvariant : Prop :=
  ∀ s t : State, Inv s → step s = .next t → Inv t ∧ t.cfg = s.cfg

/-- R18, R52, R303, R316, R87: reading UNDEF is a model fault. The step stops at it, where it is the first the command meets: at
an NBLK, SF_SHIFT or QLP that a failed command left UNDEF, by every command that reads it (a subframe header in a waiting SUBF
too, log 1); at a warm-up sample or a residual, by FIXP and LPCP; at a sample, by DECOR 8 to 10; and at a byte of BUF that
nothing has written, by every command that reads the bitstream. A register that nothing has written since reset holds its reset
value: the command goes on and the fault is recorded (the model's choice, log 4). -/
def Obligations.UndefReadsAreModelFaults : Prop :=
  ∀ s : State,
    (∀ i : Instr, i.wellFormed = true → LeftUndef s 0x21 = true →
      (∃ order c w, i = .fixp order c w) ∨ (∃ order c w, i = .lpcp order c w) ∨ (∃ order, i = .resd order) ∨
        (∃ c bps, i = .subf c bps) ∨ (∃ a bps, i = .decor a bps) ∨
        (isSubframeHeader i = true ∧ ∃ o, s.sub = some o ∧ (Instr.subf o.channel o.bps).wellFormed = true) →
      exec i s = .fault .undefRegister) ∧
    (∀ (i : Instr) (order c w : Byte) (warmup : List Int), i = .fixp order c w ∨ i = .lpcp order c w →
      i.wellFormed = true → NblkReady s → order.toNat ≤ nblkOf s →
      holdsAt s.smp (smpAddress c.toNat 0) warmup = true → (∀ v ∈ warmup, InRange v w.toNat) →
      (warmup.length < order.toNat → cellGet s.smp (smpAddress c.toNat warmup.length) = none →
        exec i s = .fault .undefEntry) ∧
      (warmup.length = order.toNat → i = .lpcp order c w →
        (LeftUndef s 0x34 = true → exec i s = .fault .undefRegister) ∧
        (LeftUndef s 0x34 = false → 0 ≤ s.sf.shift.toInt → order.toNat < nblkOf s →
          (cellGet s.res 0).isSome = true → (∃ j, j < order.toNat ∧ LeftUndef s (0x40 + j) = true) →
          exec i s = .fault .undefRegister)) ∧
      (∀ (coefficients residuals : List Int) (shift : Nat),
        (i = .fixp order c w ∧ coefficients = fixedCoefficients order.toNat ∧ shift = 0) ∨
          (i = .lpcp order c w ∧ coefficients = coefficientsOf s order.toNat ∧ s.sf.shift.toInt = shift ∧
            (∀ n, n = 0x34 ∨ (0x40 ≤ n ∧ n < 0x40 + order.toNat) → LeftUndef s n = false)) →
        warmup.length = order.toNat → warmup.length + residuals.length < nblkOf s →
        holdsAt s.res 0 residuals = true → (∀ r ∈ residuals, FitsEntry r) →
        (∀ v ∈ rebuild coefficients shift warmup residuals, InRange v w.toNat) →
        cellGet s.res residuals.length = none → exec i s = .fault .undefEntry)) ∧
    (∀ (a bps : Byte) (xs ys : List Int), (Instr.decor a bps).wellFormed = true → NblkReady s → 8 ≤ a.toNat →
      xs.length = ys.length → xs.length < nblkOf s →
      holdsAt s.smp (smpAddress 0 0) xs = true → holdsAt s.smp (smpAddress 1 0) ys = true →
      (∀ v ∈ xs, FitsEntry v) → (∀ v ∈ ys, FitsEntry v) →
      (∀ p ∈ List.zipWith (leftRight a.toNat) xs ys, InRange p.1 bps.toNat ∧ InRange p.2 bps.toNat) →
      cellGet s.smp (smpAddress 0 xs.length) = none ∨ cellGet s.smp (smpAddress 1 xs.length) = none →
      exec (.decor a bps) s = .fault .undefEntry) ∧
    (∀ (i : Instr) (order c w : Byte) (t : State), i.wellFormed = true → exec i s = .next t →
      (s.undef.getLsbD 0x21 = true →
        i = .fixp order c w ∨ i = .lpcp order c w ∨ i = .resd order ∨ i = .subf c w ∨ i = .decor c w →
        t.undefRead = true) ∧
      (i = .lpcp order c w → t.code = .ok →
        s.undef.getLsbD 0x34 = true ∨
          (order.toNat < nblkOf s ∧ ∃ j, j < order.toNat ∧ s.undef.getLsbD (0x40 + j) = true) →
        t.undefRead = true)) ∧
    (∀ (n : Byte) (bits : List Bool), n.toNat ≤ 64 → bits.length = n.toNat → MeetsUnwritten s bits →
      exec (.rdb n) s = .fault .undefByte ∧ exec (.rds n) s = .fault .undefByte) ∧
    (∀ q, MeetsUnwritten s (unaryBits s.cfg.unaryStop q) → exec .rdu s = .fault .undefByte) ∧
    (∀ (k : Byte) (v : Int), k.toNat ≤ 30 → FitsEntry v → Bounded s →
      MeetsUnwritten s (riceBits s.cfg.unaryStop k.toNat v) → exec (.rdr k) s = .fault .undefByte) ∧
    (s.pos.toNat % 8 ≠ 0 → cellGet s.buf (s.pos.toNat / 8) = none → exec .aln s = .fault .undefByte) ∧
    (∀ (order : Byte) (x : SectionCode), (Instr.resd order).wellFormed = true → NblkReady s → Bounded s →
      x.legal (nblkOf s) order.toNat = true → MeetsUnwritten s (x.bits s.cfg.unaryStop) →
      exec (.resd order) s = .fault .undefByte) ∧
    (∀ (c bps : Byte) (x : SubframeCode), (Instr.subf c bps).wellFormed = true → NblkReady s → Bounded s →
      bps.toNat ≤ s.cfg.maxSubframeBps → x.wasted < bps.toNat →
      x.body.fieldsLegal s.cfg.maxLpcOrder (nblkOf s) (bps.toNat - x.wasted) = true →
      MeetsUnwritten s (x.bits s.cfg.unaryStop bps.toNat) → exec (.subf c bps) s = .fault .undefByte) ∧
    (∀ h : HeaderCode, s.siValid = true → s.pos.toNat % 8 = 0 → Bounded s → h.fieldsLegal = true →
      RegistersDefined s [0x10, 0x11, 0x12, 0x15] → MeetsUnwritten s h.bits → exec .fhdr s = .fault .undefByte) ∧
    (∀ bits : List Bool, bits.length = (8 - s.pos.toNat % 8) % 8 + 16 → Bounded s → MeetsUnwritten s bits →
      exec .fftr s = .fault .undefByte) ∧
    (∀ x : FrameCode, s.siValid = true → s.pos.toNat % 8 = 0 → Bounded s → 1 ≤ s.si.bps.toNat → x.legal s = true →
      RegistersDefined s [0x10, 0x11, 0x12, 0x15] → MeetsUnwritten s (x.bits s) → exec .frame s = .fault .undefByte)

/-! The host. -/

/-- R39, R32, R85: a host write of SEEK and of LEN. -/
def Obligations.HostSeeksAndSetsLength : Prop :=
  ∀ (s : State) (v : Word) (rest : List HostAccess), s.sub = none →
    (s.inbox = .writeRegister 0x05 v :: rest → v.toNat ≤ s.len.toNat →
      step s = .next { s with inbox := rest, pos := BitVec.ofNat 65 (8 * v.toNat), crc8 := 0, crc16 := 0, code := .ok }) ∧
    (s.inbox = .writeRegister 0x05 v :: rest → s.len.toNat < v.toNat →
      step s = .next { s with inbox := rest, code := .illegalCommand }) ∧
    (s.inbox = .writeRegister 0x06 v :: rest → v.toNat ≤ s.cfg.bufMax → s.pos.toNat ≤ 8 * v.toNat →
      step s = .next { s with inbox := rest, len := v, code := .ok }) ∧
    (s.inbox = .writeRegister 0x06 v :: rest → s.cfg.bufMax < v.toNat ∨ 8 * v.toNat < s.pos.toNat →
      step s = .next { s with inbox := rest, code := .illegalCommand })

/-- R31 to R44, R51, R79: the host's reads of the registers, which change nothing of the core's (what a read returned is the
model's own field hostData, log 16; POS at 2^64 reads a free value, log 7), and the other host writes. A read gives STATUS with
CODE, numbered as R104 does, in bits [3:0], VALID in bit 8 and STICKY in bit 16, register 0x07 with the two CRCs, UNDEF where
the register is marked, 0 for CMD, SEEK and a number not in the map, and every other field zero-extended but SF_SHIFT and QLP,
sign-extended. STATUS bit 16 clears STICKY, CTRL takes SCAN, an FH register, SF_SHIFT and a QLP register store their low bits,
and a read-only number or one not in the map ignores the write. -/
def Obligations.HostWritesRegisters : Prop :=
  (∀ (s : State) (n : BitVec 7) (rest : List HostAccess), s.sub = none → s.inbox = .readRegister n :: rest →
    step s = .next { s with inbox := rest, hostData := registerRead s n.toNat }) ∧
  (∀ (s : State) (n : Nat), s.undef.getLsbD n = true → registerRead s n = none) ∧
  (∀ s : State, MarksSound s →
    (∃ w, registerRead s 0x01 = some w ∧
      w.toNat = [Code.ok, .outOfData, .malformedStream, .unsupportedStream, .integrityError, .resync,
        .illegalCommand].idxOf s.code + 2 ^ 8 * s.valid.toNat + 2 ^ 16 * s.sticky.toNat) ∧
    registerRead s 0x02 = some s.result ∧
    (∃ w, registerRead s 0x03 = some w ∧ w.toNat = s.scan.toNat) ∧
    (s.pos.toNat < 2 ^ 64 → ∃ w, registerRead s 0x04 = some w ∧ w.toNat = s.pos.toNat) ∧
    registerRead s 0x06 = some s.len ∧
    (∃ w, registerRead s 0x07 = some w ∧ w.toNat = s.crc8.toNat + 2 ^ 8 * s.crc16.toNat) ∧
    (∃ w, registerRead s 0x18 = some w ∧ w.toNat = s.siValid.toNat) ∧
    (∀ n, n = 0x00 ∨ n = 0x05 ∨ (0x08 ≤ n ∧ n ≤ 0x0F) ∨ (0x19 ≤ n ∧ n ≤ 0x1F) ∨ (0x28 ≤ n ∧ n ≤ 0x2F) ∨
      (0x35 ≤ n ∧ n ≤ 0x3F) ∨ 0x60 ≤ n → registerRead s n = some 0)) ∧
  (∀ (s : State) (n : Nat), s.undef.getLsbD n = false →
    (0x10 ≤ n → n ≤ 0x17 → ∃ w, registerRead s n = some w ∧
      [s.si.rate.toNat, s.si.channels.toNat, s.si.bps.toNat, s.si.total.toNat, s.si.minBlock.toNat,
        s.si.maxBlock.toNat, s.si.minFrame.toNat, s.si.maxFrame.toNat][n - 0x10]? = some w.toNat) ∧
    (0x20 ≤ n → n ≤ 0x27 → ∃ w, registerRead s n = some w ∧
      [s.fh.blocking.toNat, s.fh.blockSize.toNat, s.fh.rate.toNat, s.fh.chAssign.toNat, s.fh.channels.toNat,
        s.fh.bps.toNat, s.fh.number.toNat, s.fh.crc8.toNat][n - 0x20]? = some w.toNat) ∧
    (0x30 ≤ n → n ≤ 0x33 → ∃ w, registerRead s n = some w ∧
      [s.sf.type.toNat, s.sf.order.toNat, s.sf.wasted.toNat, s.sf.prec.toNat][n - 0x30]? = some w.toNat) ∧
    (n = 0x34 → ∃ w, registerRead s n = some w ∧ w.toInt = s.sf.shift.toInt) ∧
    (0x40 ≤ n → n ≤ 0x5F → ∃ w, registerRead s n = some w ∧ w.toInt = qlpOf s (n - 0x40))) ∧
  ∀ (s : State) (n : BitVec 7) (v : Word) (rest : List HostAccess),
    s.sub = none → s.inbox = .writeRegister n v :: rest →
    (n.toNat = 0x01 → step s = .next { s with inbox := rest, sticky := s.sticky && !v.getLsbD 16 }) ∧
    (n.toNat = 0x03 → step s = .next { s with inbox := rest, scan := v.getLsbD 0 }) ∧
    (n.toNat = 0x02 ∨ n.toNat = 0x04 ∨ (0x07 ≤ n.toNat ∧ n.toNat ≤ 0x0F) ∨ (0x19 ≤ n.toNat ∧ n.toNat ≤ 0x1F) ∨
        (0x28 ≤ n.toNat ∧ n.toNat ≤ 0x33) ∨ (0x35 ≤ n.toNat ∧ n.toNat ≤ 0x3F) ∨ 0x60 ≤ n.toNat →
      step s = .next { s with inbox := rest }) ∧
    (0x20 ≤ n.toNat → n.toNat ≤ 0x27 → ∃ t, step s = .next t ∧
      t = { s with inbox := rest, fh := t.fh, undef := t.undef } ∧
      registerRead t n.toNat =
        some (v &&& BitVec.ofNat 64 (2 ^ [1, 17, 20, 4, 4, 6, 36, 8].getD (n.toNat - 0x20) 0 - 1)) ∧
      (∀ r, r < 128 → r ≠ n.toNat → registerRead t r = registerRead s r)) ∧
    (n.toNat = 0x34 → ∃ t, step s = .next t ∧ t = { s with inbox := rest, sf := t.sf, undef := t.undef } ∧
      registerRead t 0x34 = some ((v.setWidth 5).signExtend 64) ∧
      (∀ r, r < 128 → r ≠ 0x34 → registerRead t r = registerRead s r)) ∧
    (0x40 ≤ n.toNat → n.toNat ≤ 0x5F → ∃ t, step s = .next t ∧
      t = { s with inbox := rest, qlp := t.qlp, undef := t.undef } ∧
      registerRead t n.toNat = some ((v.setWidth 16).signExtend 64) ∧
      (∀ r, r < 128 → r ≠ n.toNat → registerRead t r = registerRead s r))

/-- R40: a host write of 1 to SI_VALID sets it over a complete StreamInfo in its legal ranges and is IllegalCommand over
any other; a write of 0 clears it; a write to a StreamInfo register stores it and clears SI_VALID. That a successful write of 1
leaves OK in CODE is the model's reading, and CODE after a write of 0 is left free (log 8). -/
def Obligations.HostValidatesStreamInfo : Prop :=
  ∀ (s : State) (v : Word) (rest : List HostAccess), s.sub = none →
    (s.inbox = .writeRegister 0x18 1 :: rest →
      ((∀ r, 0x10 ≤ r → r ≤ 0x17 → s.undef.getLsbD r = false) ∧
          1 ≤ s.si.channels.toNat ∧ s.si.channels.toNat ≤ 8 ∧ 4 ≤ s.si.bps.toNat ∧ s.si.bps.toNat ≤ 32 →
        step s = .next { s with inbox := rest, siValid := true, code := .ok }) ∧
      (¬ ((∀ r, 0x10 ≤ r → r ≤ 0x17 → s.undef.getLsbD r = false) ∧
          1 ≤ s.si.channels.toNat ∧ s.si.channels.toNat ≤ 8 ∧ 4 ≤ s.si.bps.toNat ∧ s.si.bps.toNat ≤ 32) →
        step s = .next { s with inbox := rest, siValid := false, code := .illegalCommand })) ∧
    (s.inbox = .writeRegister 0x18 0 :: rest →
      ∃ t, step s = .next t ∧ t = { s with inbox := rest, siValid := false, code := t.code }) ∧
    (∀ n : BitVec 7, 0x10 ≤ n.toNat → n.toNat ≤ 0x17 → s.inbox = .writeRegister n v :: rest →
      ∃ t, step s = .next t ∧ t = { s with inbox := rest, si := t.si, siValid := false, undef := t.undef } ∧
        (∀ r, t.undef.getLsbD r = (s.undef.getLsbD r && !decide (r = n.toNat))) ∧
        registerRead t n.toNat =
          some (v &&& BitVec.ofNat 64 (2 ^ [20, 4, 6, 36, 16, 16, 24, 24].getD (n.toNat - 0x10) 0 - 1)) ∧
        (∀ r, 0x10 ≤ r → r ≤ 0x17 → r ≠ n.toNat → registerRead t r = registerRead s r))

/-- R75, R76, R77, R85: the host's reads and writes of bytes of BUF and of RES and SMP entries; addresses outside RES and SMP
read 0 and ignore writes. What a read returned is the model's own field hostData, a byte zero-extended (log 16). -/
def Obligations.HostReachesBuffers : Prop :=
  ∀ (s : State) (a : Nat) (b : Byte) (v : Word) (rest : List HostAccess), s.sub = none →
    (s.inbox = .readBuf a :: rest → a < s.cfg.bufMax → ∃ t, step s = .next t ∧
      t = { s with inbox := rest, hostData := t.hostData } ∧
      t.hostData = (cellGet s.buf a).map (fun x => x.setWidth 64)) ∧
    (s.inbox = .writeBuf a b :: rest → a < s.cfg.bufMax → ∃ t, step s = .next t ∧
      t = { s with inbox := rest, buf := t.buf } ∧
      ∀ x, cellGet t.buf x = if x = a then some b else cellGet s.buf x) ∧
    (s.inbox = .readRes a :: rest → ∃ t, step s = .next t ∧
      t = { s with inbox := rest, hostData := t.hostData } ∧
      t.hostData = if a ≤ 65534 then cellGet s.res a else some 0) ∧
    (s.inbox = .readSmp a :: rest → ∃ t, step s = .next t ∧
      t = { s with inbox := rest, hostData := t.hostData } ∧
      t.hostData = if a / 65536 ≤ 7 ∧ a % 65536 ≤ 65534 then cellGet s.smp a else some 0) ∧
    (s.inbox = .writeRes a v :: rest → ∃ t, step s = .next t ∧
      t = { s with inbox := rest, res := t.res } ∧
      ∀ x, cellGet t.res x = if x = a ∧ a ≤ 65534 then some v else cellGet s.res x) ∧
    (s.inbox = .writeSmp a v :: rest → ∃ t, step s = .next t ∧
      t = { s with inbox := rest, smp := t.smp } ∧
      ∀ x, cellGet t.smp x = if x = a ∧ a / 65536 ≤ 7 ∧ a % 65536 ≤ 65534 then some v else cellGet s.smp x)
end

