-- ==== Sys2Proof/Laws/Cmd.lean ====
section
/-! SUPPORT. The parts of a command: how `bind`, `andThen`, `require` and `forRange` end, and what every way of ending keeps. -/

namespace Sys2Proof.Machine

variable {α β : Type}

@[simp] theorem pure_apply (a : α) (s : State) : Cmd.pure a s = .ok a s := rfl
@[simp] theorem raise_apply (c : Code) (s : State) : (Cmd.raise c : Cmd α) s = .raised c s := rfl
@[simp] theorem read_apply (f : State → α) (s : State) : Cmd.read f s = .ok (f s) s := rfl
@[simp] theorem update_apply (f : State → State) (s : State) : Cmd.update f s = .ok () (f s) := rfl

theorem bind_of_ok {m : Cmd α} {k : α → Cmd β} {s t : State} {a : α} (h : m s = .ok a t) : m.bind k s = k a t := by
  simp [Cmd.bind, h]

theorem bind_of_raised {m : Cmd α} {k : α → Cmd β} {s t : State} {c : Code} (h : m s = .raised c t) :
    m.bind k s = .raised c t := by
  simp [Cmd.bind, h]

theorem bind_of_faulted {m : Cmd α} {k : α → Cmd β} {s : State} {f : Fault} (h : m s = .faulted f) :
    m.bind k s = .faulted f := by
  simp [Cmd.bind, h]

theorem andThen_of_ok {m : Cmd α} {k : Cmd β} {s t : State} {a : α} (h : m s = .ok a t) : m.andThen k s = k t :=
  bind_of_ok h

theorem andThen_of_raised {m : Cmd α} {k : Cmd β} {s t : State} {c : Code} (h : m s = .raised c t) :
    m.andThen k s = .raised c t :=
  bind_of_raised h

theorem andThen_of_faulted {m : Cmd α} {k : Cmd β} {s : State} {f : Fault} (h : m s = .faulted f) :
    m.andThen k s = .faulted f :=
  bind_of_faulted h

@[simp] theorem pure_bind (a : α) (k : α → Cmd β) : (Cmd.pure a).bind k = k a := rfl
@[simp] theorem read_bind (f : State → α) (k : α → Cmd β) (s : State) : (Cmd.read f).bind k s = k (f s) s := rfl
@[simp] theorem pure_andThen (a : α) (k : Cmd β) : (Cmd.pure a).andThen k = k := rfl
@[simp] theorem raise_bind (c : Code) (k : α → Cmd β) : (Cmd.raise c).bind k = Cmd.raise c := rfl
@[simp] theorem raise_andThen (c : Code) (k : Cmd β) : (Cmd.raise c : Cmd α).andThen k = Cmd.raise c := rfl
@[simp] theorem update_andThen (f : State → State) (k : Cmd β) (s : State) :
    (Cmd.update f).andThen k s = k (f s) := rfl

theorem bind_assoc {γ : Type} (m : Cmd α) (k : α → Cmd β) (l : β → Cmd γ) :
    (m.bind k).bind l = m.bind fun a => (k a).bind l := by
  funext s; simp only [Cmd.bind]; cases m s <;> rfl

/-- A part that ends well ended well in both its parts. -/
theorem bind_eq_ok {m : Cmd α} {k : α → Cmd β} {s u : State} {b : β} :
    m.bind k s = .ok b u ↔ ∃ a t, m s = .ok a t ∧ k a t = .ok b u := by
  simp only [Cmd.bind]; cases m s <;> simp

/-- A part that raises does so in its first part, or in its second after the first ended well. -/
theorem bind_eq_raised {m : Cmd α} {k : α → Cmd β} {s u : State} {c : Code} :
    m.bind k s = .raised c u ↔ m s = .raised c u ∨ ∃ a t, m s = .ok a t ∧ k a t = .raised c u := by
  simp only [Cmd.bind]; cases m s <;> simp

/-- So does one that faults. -/
theorem bind_eq_faulted {m : Cmd α} {k : α → Cmd β} {s : State} {f : Fault} :
    m.bind k s = .faulted f ↔ m s = .faulted f ∨ ∃ a t, m s = .ok a t ∧ k a t = .faulted f := by
  simp only [Cmd.bind]; cases m s <;> simp

theorem andThen_eq_ok {m : Cmd α} {k : Cmd β} {s u : State} {b : β} :
    m.andThen k s = .ok b u ↔ ∃ a t, m s = .ok a t ∧ k t = .ok b u :=
  bind_eq_ok

theorem andThen_eq_raised {m : Cmd α} {k : Cmd β} {s u : State} {c : Code} :
    m.andThen k s = .raised c u ↔ m s = .raised c u ∨ ∃ a t, m s = .ok a t ∧ k t = .raised c u :=
  bind_eq_raised

theorem andThen_eq_faulted {m : Cmd α} {k : Cmd β} {s : State} {f : Fault} :
    m.andThen k s = .faulted f ↔ m s = .faulted f ∨ ∃ a t, m s = .ok a t ∧ k t = .faulted f :=
  bind_eq_faulted

@[simp] theorem require_of {p : Prop} [Decidable p] (h : p) (c : Code) : Cmd.require p c = Cmd.pure () := if_pos h

@[simp] theorem require_of_not {p : Prop} [Decidable p] (h : ¬ p) (c : Code) : Cmd.require p c = Cmd.raise c := if_neg h

theorem require_eq_ok {p : Prop} [Decidable p] {c : Code} {s t : State} {u : Unit} :
    Cmd.require p c s = .ok u t ↔ p ∧ t = s := by
  by_cases h : p <;> simp [h, eq_comm]

theorem require_eq_raised {p : Prop} [Decidable p] {c d : Code} {s t : State} :
    Cmd.require p c s = .raised d t ↔ ¬ p ∧ d = c ∧ t = s := by
  by_cases h : p <;> simp [h, eq_comm]

@[simp] theorem forRange_zero (body : Nat → Cmd Unit) (i : Nat) : Cmd.forRange body 0 i = Cmd.pure () := rfl

theorem forRange_succ (body : Nat → Cmd Unit) (n i : Nat) :
    Cmd.forRange body (n + 1) i = (body i).andThen (Cmd.forRange body n (i + 1)) := rfl

/-! What a part keeps, however it ends. -/

/-- However m ends, short of a model fault, R relates the state it started in and the one it ends in. -/
def Keeps (R : State → State → Prop) (m : Cmd α) : Prop :=
  ∀ s, match m s with
    | .ok _ t => R s t
    | .raised _ t => R s t
    | .faulted _ => True

theorem Keeps.of_ok {R : State → State → Prop} {m : Cmd α} (h : Keeps R m) {s t : State} {a : α}
    (e : m s = .ok a t) : R s t := by
  have := h s; rwa [e] at this

theorem Keeps.of_raised {R : State → State → Prop} {m : Cmd α} (h : Keeps R m) {s t : State} {c : Code}
    (e : m s = .raised c t) : R s t := by
  have := h s; rwa [e] at this

/-- What is kept may be weakened. -/
theorem Keeps.mono {R R' : State → State → Prop} {m : Cmd α} (h : Keeps R m) (w : ∀ s t, R s t → R' s t) :
    Keeps R' m := by
  intro s
  have := h s
  cases e : m s <;> simp_all

/-- A relation a run of parts can keep: it holds of doing nothing and of one thing after another. -/
structure Closed (R : State → State → Prop) : Prop where
  refl : ∀ s, R s s
  trans : ∀ {s t u}, R s t → R t u → R s u

variable {R : State → State → Prop}

theorem Keeps.pure (hR : Closed R) (a : α) : Keeps R (Cmd.pure a) := fun s => hR.refl s

theorem Keeps.raise (hR : Closed R) (c : Code) : Keeps R (Cmd.raise c : Cmd α) := fun s => hR.refl s

theorem Keeps.read (hR : Closed R) (f : State → α) : Keeps R (Cmd.read f) := fun s => hR.refl s

theorem Keeps.update {f : State → State} (h : ∀ s, R s (f s)) : Keeps R (Cmd.update f) := h

theorem Keeps.require (hR : Closed R) (p : Prop) [Decidable p] (c : Code) : Keeps R (Cmd.require p c) := by
  unfold Cmd.require; split
  exacts [.pure hR (), .raise hR c]

theorem Keeps.bind (hR : Closed R) {m : Cmd α} {k : α → Cmd β} (hm : Keeps R m) (hk : ∀ a, Keeps R (k a)) :
    Keeps R (m.bind k) := by
  intro s
  have := hm s
  simp only [Cmd.bind]
  cases e : m s with
  | ok a t =>
    rw [e] at this
    have k' := hk a t
    dsimp only at this ⊢
    cases e' : k a t <;> simp only [e'] at k' ⊢
    exacts [hR.trans this k', hR.trans this k']
  | raised c t => rwa [e] at this
  | faulted f => trivial

theorem Keeps.andThen (hR : Closed R) {m : Cmd α} {k : Cmd β} (hm : Keeps R m) (hk : Keeps R k) :
    Keeps R (m.andThen k) :=
  .bind hR hm fun _ => hk

theorem Keeps.ite {p : Prop} [Decidable p] {m m' : Cmd α} (hm : Keeps R m) (hm' : Keeps R m') :
    Keeps R (if p then m else m') := by
  split
  exacts [hm, hm']

/-- A part that runs, on each state, as some part that keeps R. -/
theorem Keeps.of_apply {m : Cmd α} (h : ∀ s, ∃ m' : Cmd α, Keeps R m' ∧ m s = m' s) : Keeps R m := by
  intro s
  obtain ⟨m', h', e⟩ := h s
  rw [e]; exact h' s

/-- A loop keeps what each turn keeps. -/
theorem Keeps.forRange (hR : Closed R) {body : Nat → Cmd Unit} :
    ∀ {count first : Nat}, (∀ i, first ≤ i → i < first + count → Keeps R (body i)) →
      Keeps R (Cmd.forRange body count first)
  | 0, _, _ => .pure hR ()
  | n + 1, i, h => .andThen hR (h i le_rfl (by omega)) (.forRange hR fun j h1 h2 => h j (by omega) (by omega))

/-! Running a command. -/

/-- A command ends in one of three ways. -/
theorem runCommand_cases (k : CommandKind) (body : Cmd Code) (s : State) :
    (∃ c t, body (beginCommand s) = .ok c t ∧ runCommand k body s = .next (endCommand c t)) ∨
    (∃ c t, body (beginCommand s) = .raised c t ∧ runCommand k body s = .next (fatalEnd k c t)) ∨
    (∃ f, body (beginCommand s) = .faulted f ∧ runCommand k body s = .fault f) := by
  unfold runCommand
  cases h : body (beginCommand s)
  exacts [.inl ⟨_, _, rfl, rfl⟩, .inr (.inl ⟨_, _, rfl, rfl⟩), .inr (.inr ⟨_, rfl, rfl⟩)]

theorem runCommand_of_ok {k : CommandKind} {body : Cmd Code} {s t : State} {c : Code}
    (h : body (beginCommand s) = .ok c t) : runCommand k body s = .next (endCommand c t) := by
  simp [runCommand, h]

theorem runCommand_of_raised {k : CommandKind} {body : Cmd Code} {s t : State} {c : Code}
    (h : body (beginCommand s) = .raised c t) : runCommand k body s = .next (fatalEnd k c t) := by
  simp [runCommand, h]

theorem runCommand_of_faulted {k : CommandKind} {body : Cmd Code} {s : State} {f : Fault}
    (h : body (beginCommand s) = .faulted f) : runCommand k body s = .fault f := by
  simp [runCommand, h]

/-- A command that answers a next state ended well or fatally. -/
theorem runCommand_next {k : CommandKind} {body : Cmd Code} {s t : State} (h : runCommand k body s = .next t) :
    (∃ c u, body (beginCommand s) = .ok c u ∧ t = endCommand c u) ∨
    (∃ c u, body (beginCommand s) = .raised c u ∧ t = fatalEnd k c u) := by
  rcases runCommand_cases k body s with ⟨c, u, e, r⟩ | ⟨c, u, e, r⟩ | ⟨f, _, r⟩ <;> rw [r] at h
  · cases h; exact .inl ⟨c, u, e, rfl⟩
  · cases h; exact .inr ⟨c, u, e, rfl⟩
  · cases h

end Sys2Proof.Machine
end

