-- ==== Sys2Proof/Laws/State.lean ====
section
/-! SUPPORT. What each update of the state does to each field, one lemma per field, so that no proof unfolds a record
update. The lemmas of an update stand together; those of the fields it writes say what they become. -/

namespace Sys2Proof.Machine

variable (s : State)

/-! setPos. -/

@[simp] theorem setPos_cfg (p : Nat) : (setPos p s).cfg = s.cfg := rfl
@[simp] theorem setPos_pos (p : Nat) : (setPos p s).pos = BitVec.ofNat 65 p := rfl
@[simp] theorem setPos_len (p : Nat) : (setPos p s).len = s.len := rfl
@[simp] theorem setPos_crc8 (p : Nat) : (setPos p s).crc8 = s.crc8 := rfl
@[simp] theorem setPos_crc16 (p : Nat) : (setPos p s).crc16 = s.crc16 := rfl
@[simp] theorem setPos_result (p : Nat) : (setPos p s).result = s.result := rfl
@[simp] theorem setPos_code (p : Nat) : (setPos p s).code = s.code := rfl
@[simp] theorem setPos_valid (p : Nat) : (setPos p s).valid = s.valid := rfl
@[simp] theorem setPos_sticky (p : Nat) : (setPos p s).sticky = s.sticky := rfl
@[simp] theorem setPos_scan (p : Nat) : (setPos p s).scan = s.scan := rfl
@[simp] theorem setPos_si (p : Nat) : (setPos p s).si = s.si := rfl
@[simp] theorem setPos_siValid (p : Nat) : (setPos p s).siValid = s.siValid := rfl
@[simp] theorem setPos_fh (p : Nat) : (setPos p s).fh = s.fh := rfl
@[simp] theorem setPos_sf (p : Nat) : (setPos p s).sf = s.sf := rfl
@[simp] theorem setPos_qlp (p : Nat) : (setPos p s).qlp = s.qlp := rfl
@[simp] theorem setPos_undef (p : Nat) : (setPos p s).undef = s.undef := rfl
@[simp] theorem setPos_undefRead (p : Nat) : (setPos p s).undefRead = s.undefRead := rfl
@[simp] theorem setPos_spoiled (p : Nat) : (setPos p s).spoiled = s.spoiled := rfl
@[simp] theorem setPos_buf (p : Nat) : (setPos p s).buf = s.buf := rfl
@[simp] theorem setPos_res (p : Nat) : (setPos p s).res = s.res := rfl
@[simp] theorem setPos_smp (p : Nat) : (setPos p s).smp = s.smp := rfl
@[simp] theorem setPos_snap (p : Nat) : (setPos p s).snap = s.snap := rfl
@[simp] theorem setPos_freeCtr (p : Nat) : (setPos p s).freeCtr = s.freeCtr := rfl
@[simp] theorem setPos_sub (p : Nat) : (setPos p s).sub = s.sub := rfl
@[simp] theorem setPos_inbox (p : Nat) : (setPos p s).inbox = s.inbox := rfl
@[simp] theorem setPos_hostData (p : Nat) : (setPos p s).hostData = s.hostData := rfl

/-! setCrcs. -/

@[simp] theorem setCrcs_cfg (c8 : BitVec 8) (c16 : BitVec 16) : (setCrcs c8 c16 s).cfg = s.cfg := rfl
@[simp] theorem setCrcs_pos (c8 : BitVec 8) (c16 : BitVec 16) : (setCrcs c8 c16 s).pos = s.pos := rfl
@[simp] theorem setCrcs_len (c8 : BitVec 8) (c16 : BitVec 16) : (setCrcs c8 c16 s).len = s.len := rfl
@[simp] theorem setCrcs_crc8 (c8 : BitVec 8) (c16 : BitVec 16) : (setCrcs c8 c16 s).crc8 = c8 := rfl
@[simp] theorem setCrcs_crc16 (c8 : BitVec 8) (c16 : BitVec 16) : (setCrcs c8 c16 s).crc16 = c16 := rfl
@[simp] theorem setCrcs_result (c8 : BitVec 8) (c16 : BitVec 16) : (setCrcs c8 c16 s).result = s.result := rfl
@[simp] theorem setCrcs_code (c8 : BitVec 8) (c16 : BitVec 16) : (setCrcs c8 c16 s).code = s.code := rfl
@[simp] theorem setCrcs_valid (c8 : BitVec 8) (c16 : BitVec 16) : (setCrcs c8 c16 s).valid = s.valid := rfl
@[simp] theorem setCrcs_sticky (c8 : BitVec 8) (c16 : BitVec 16) : (setCrcs c8 c16 s).sticky = s.sticky := rfl
@[simp] theorem setCrcs_scan (c8 : BitVec 8) (c16 : BitVec 16) : (setCrcs c8 c16 s).scan = s.scan := rfl
@[simp] theorem setCrcs_si (c8 : BitVec 8) (c16 : BitVec 16) : (setCrcs c8 c16 s).si = s.si := rfl
@[simp] theorem setCrcs_siValid (c8 : BitVec 8) (c16 : BitVec 16) : (setCrcs c8 c16 s).siValid = s.siValid := rfl
@[simp] theorem setCrcs_fh (c8 : BitVec 8) (c16 : BitVec 16) : (setCrcs c8 c16 s).fh = s.fh := rfl
@[simp] theorem setCrcs_sf (c8 : BitVec 8) (c16 : BitVec 16) : (setCrcs c8 c16 s).sf = s.sf := rfl
@[simp] theorem setCrcs_qlp (c8 : BitVec 8) (c16 : BitVec 16) : (setCrcs c8 c16 s).qlp = s.qlp := rfl
@[simp] theorem setCrcs_undef (c8 : BitVec 8) (c16 : BitVec 16) : (setCrcs c8 c16 s).undef = s.undef := rfl
@[simp] theorem setCrcs_undefRead (c8 : BitVec 8) (c16 : BitVec 16) : (setCrcs c8 c16 s).undefRead = s.undefRead := rfl
@[simp] theorem setCrcs_spoiled (c8 : BitVec 8) (c16 : BitVec 16) : (setCrcs c8 c16 s).spoiled = s.spoiled := rfl
@[simp] theorem setCrcs_buf (c8 : BitVec 8) (c16 : BitVec 16) : (setCrcs c8 c16 s).buf = s.buf := rfl
@[simp] theorem setCrcs_res (c8 : BitVec 8) (c16 : BitVec 16) : (setCrcs c8 c16 s).res = s.res := rfl
@[simp] theorem setCrcs_smp (c8 : BitVec 8) (c16 : BitVec 16) : (setCrcs c8 c16 s).smp = s.smp := rfl
@[simp] theorem setCrcs_snap (c8 : BitVec 8) (c16 : BitVec 16) : (setCrcs c8 c16 s).snap = s.snap := rfl
@[simp] theorem setCrcs_freeCtr (c8 : BitVec 8) (c16 : BitVec 16) : (setCrcs c8 c16 s).freeCtr = s.freeCtr := rfl
@[simp] theorem setCrcs_sub (c8 : BitVec 8) (c16 : BitVec 16) : (setCrcs c8 c16 s).sub = s.sub := rfl
@[simp] theorem setCrcs_inbox (c8 : BitVec 8) (c16 : BitVec 16) : (setCrcs c8 c16 s).inbox = s.inbox := rfl
@[simp] theorem setCrcs_hostData (c8 : BitVec 8) (c16 : BitVec 16) : (setCrcs c8 c16 s).hostData = s.hostData := rfl

/-! feedByte. -/

@[simp] theorem feedByte_cfg (b : Byte) : (feedByte b s).cfg = s.cfg := rfl
@[simp] theorem feedByte_pos (b : Byte) : (feedByte b s).pos = s.pos := rfl
@[simp] theorem feedByte_len (b : Byte) : (feedByte b s).len = s.len := rfl
@[simp] theorem feedByte_crc8 (b : Byte) : (feedByte b s).crc8 = crc8Byte s.crc8 b := rfl
@[simp] theorem feedByte_crc16 (b : Byte) : (feedByte b s).crc16 = crc16Byte s.crc16 b := rfl
@[simp] theorem feedByte_result (b : Byte) : (feedByte b s).result = s.result := rfl
@[simp] theorem feedByte_code (b : Byte) : (feedByte b s).code = s.code := rfl
@[simp] theorem feedByte_valid (b : Byte) : (feedByte b s).valid = s.valid := rfl
@[simp] theorem feedByte_sticky (b : Byte) : (feedByte b s).sticky = s.sticky := rfl
@[simp] theorem feedByte_scan (b : Byte) : (feedByte b s).scan = s.scan := rfl
@[simp] theorem feedByte_si (b : Byte) : (feedByte b s).si = s.si := rfl
@[simp] theorem feedByte_siValid (b : Byte) : (feedByte b s).siValid = s.siValid := rfl
@[simp] theorem feedByte_fh (b : Byte) : (feedByte b s).fh = s.fh := rfl
@[simp] theorem feedByte_sf (b : Byte) : (feedByte b s).sf = s.sf := rfl
@[simp] theorem feedByte_qlp (b : Byte) : (feedByte b s).qlp = s.qlp := rfl
@[simp] theorem feedByte_undef (b : Byte) : (feedByte b s).undef = s.undef := rfl
@[simp] theorem feedByte_undefRead (b : Byte) : (feedByte b s).undefRead = s.undefRead := rfl
@[simp] theorem feedByte_spoiled (b : Byte) : (feedByte b s).spoiled = s.spoiled := rfl
@[simp] theorem feedByte_buf (b : Byte) : (feedByte b s).buf = s.buf := rfl
@[simp] theorem feedByte_res (b : Byte) : (feedByte b s).res = s.res := rfl
@[simp] theorem feedByte_smp (b : Byte) : (feedByte b s).smp = s.smp := rfl
@[simp] theorem feedByte_snap (b : Byte) : (feedByte b s).snap = s.snap := rfl
@[simp] theorem feedByte_freeCtr (b : Byte) : (feedByte b s).freeCtr = s.freeCtr := rfl
@[simp] theorem feedByte_sub (b : Byte) : (feedByte b s).sub = s.sub := rfl
@[simp] theorem feedByte_inbox (b : Byte) : (feedByte b s).inbox = s.inbox := rfl
@[simp] theorem feedByte_hostData (b : Byte) : (feedByte b s).hostData = s.hostData := rfl

/-! setResult. -/

@[simp] theorem setResult_cfg (v : Word) : (setResult v s).cfg = s.cfg := rfl
@[simp] theorem setResult_pos (v : Word) : (setResult v s).pos = s.pos := rfl
@[simp] theorem setResult_len (v : Word) : (setResult v s).len = s.len := rfl
@[simp] theorem setResult_crc8 (v : Word) : (setResult v s).crc8 = s.crc8 := rfl
@[simp] theorem setResult_crc16 (v : Word) : (setResult v s).crc16 = s.crc16 := rfl
@[simp] theorem setResult_result (v : Word) : (setResult v s).result = v := rfl
@[simp] theorem setResult_code (v : Word) : (setResult v s).code = s.code := rfl
@[simp] theorem setResult_valid (v : Word) : (setResult v s).valid = s.valid := rfl
@[simp] theorem setResult_sticky (v : Word) : (setResult v s).sticky = s.sticky := rfl
@[simp] theorem setResult_scan (v : Word) : (setResult v s).scan = s.scan := rfl
@[simp] theorem setResult_si (v : Word) : (setResult v s).si = s.si := rfl
@[simp] theorem setResult_siValid (v : Word) : (setResult v s).siValid = s.siValid := rfl
@[simp] theorem setResult_fh (v : Word) : (setResult v s).fh = s.fh := rfl
@[simp] theorem setResult_sf (v : Word) : (setResult v s).sf = s.sf := rfl
@[simp] theorem setResult_qlp (v : Word) : (setResult v s).qlp = s.qlp := rfl
@[simp] theorem setResult_undef (v : Word) : (setResult v s).undef = s.undef := rfl
@[simp] theorem setResult_undefRead (v : Word) : (setResult v s).undefRead = s.undefRead := rfl
@[simp] theorem setResult_spoiled (v : Word) : (setResult v s).spoiled = s.spoiled := rfl
@[simp] theorem setResult_buf (v : Word) : (setResult v s).buf = s.buf := rfl
@[simp] theorem setResult_res (v : Word) : (setResult v s).res = s.res := rfl
@[simp] theorem setResult_smp (v : Word) : (setResult v s).smp = s.smp := rfl
@[simp] theorem setResult_snap (v : Word) : (setResult v s).snap = s.snap := rfl
@[simp] theorem setResult_freeCtr (v : Word) : (setResult v s).freeCtr = s.freeCtr := rfl
@[simp] theorem setResult_sub (v : Word) : (setResult v s).sub = s.sub := rfl
@[simp] theorem setResult_inbox (v : Word) : (setResult v s).inbox = s.inbox := rfl
@[simp] theorem setResult_hostData (v : Word) : (setResult v s).hostData = s.hostData := rfl

/-! setRes. -/

@[simp] theorem setRes_cfg (i : Nat) (v : Word) : (setRes i v s).cfg = s.cfg := rfl
@[simp] theorem setRes_pos (i : Nat) (v : Word) : (setRes i v s).pos = s.pos := rfl
@[simp] theorem setRes_len (i : Nat) (v : Word) : (setRes i v s).len = s.len := rfl
@[simp] theorem setRes_crc8 (i : Nat) (v : Word) : (setRes i v s).crc8 = s.crc8 := rfl
@[simp] theorem setRes_crc16 (i : Nat) (v : Word) : (setRes i v s).crc16 = s.crc16 := rfl
@[simp] theorem setRes_result (i : Nat) (v : Word) : (setRes i v s).result = s.result := rfl
@[simp] theorem setRes_code (i : Nat) (v : Word) : (setRes i v s).code = s.code := rfl
@[simp] theorem setRes_valid (i : Nat) (v : Word) : (setRes i v s).valid = s.valid := rfl
@[simp] theorem setRes_sticky (i : Nat) (v : Word) : (setRes i v s).sticky = s.sticky := rfl
@[simp] theorem setRes_scan (i : Nat) (v : Word) : (setRes i v s).scan = s.scan := rfl
@[simp] theorem setRes_si (i : Nat) (v : Word) : (setRes i v s).si = s.si := rfl
@[simp] theorem setRes_siValid (i : Nat) (v : Word) : (setRes i v s).siValid = s.siValid := rfl
@[simp] theorem setRes_fh (i : Nat) (v : Word) : (setRes i v s).fh = s.fh := rfl
@[simp] theorem setRes_sf (i : Nat) (v : Word) : (setRes i v s).sf = s.sf := rfl
@[simp] theorem setRes_qlp (i : Nat) (v : Word) : (setRes i v s).qlp = s.qlp := rfl
@[simp] theorem setRes_undef (i : Nat) (v : Word) : (setRes i v s).undef = s.undef := rfl
@[simp] theorem setRes_undefRead (i : Nat) (v : Word) : (setRes i v s).undefRead = s.undefRead := rfl
@[simp] theorem setRes_spoiled (i : Nat) (v : Word) : (setRes i v s).spoiled = s.spoiled := rfl
@[simp] theorem setRes_buf (i : Nat) (v : Word) : (setRes i v s).buf = s.buf := rfl
@[simp] theorem setRes_res (i : Nat) (v : Word) : (setRes i v s).res = cellSet s.res i v := rfl
@[simp] theorem setRes_smp (i : Nat) (v : Word) : (setRes i v s).smp = s.smp := rfl
@[simp] theorem setRes_snap (i : Nat) (v : Word) : (setRes i v s).snap = s.snap := rfl
@[simp] theorem setRes_freeCtr (i : Nat) (v : Word) : (setRes i v s).freeCtr = s.freeCtr := rfl
@[simp] theorem setRes_sub (i : Nat) (v : Word) : (setRes i v s).sub = s.sub := rfl
@[simp] theorem setRes_inbox (i : Nat) (v : Word) : (setRes i v s).inbox = s.inbox := rfl
@[simp] theorem setRes_hostData (i : Nat) (v : Word) : (setRes i v s).hostData = s.hostData := rfl

/-! setSmp. -/

@[simp] theorem setSmp_cfg (c i : Nat) (v : Word) : (setSmp c i v s).cfg = s.cfg := rfl
@[simp] theorem setSmp_pos (c i : Nat) (v : Word) : (setSmp c i v s).pos = s.pos := rfl
@[simp] theorem setSmp_len (c i : Nat) (v : Word) : (setSmp c i v s).len = s.len := rfl
@[simp] theorem setSmp_crc8 (c i : Nat) (v : Word) : (setSmp c i v s).crc8 = s.crc8 := rfl
@[simp] theorem setSmp_crc16 (c i : Nat) (v : Word) : (setSmp c i v s).crc16 = s.crc16 := rfl
@[simp] theorem setSmp_result (c i : Nat) (v : Word) : (setSmp c i v s).result = s.result := rfl
@[simp] theorem setSmp_code (c i : Nat) (v : Word) : (setSmp c i v s).code = s.code := rfl
@[simp] theorem setSmp_valid (c i : Nat) (v : Word) : (setSmp c i v s).valid = s.valid := rfl
@[simp] theorem setSmp_sticky (c i : Nat) (v : Word) : (setSmp c i v s).sticky = s.sticky := rfl
@[simp] theorem setSmp_scan (c i : Nat) (v : Word) : (setSmp c i v s).scan = s.scan := rfl
@[simp] theorem setSmp_si (c i : Nat) (v : Word) : (setSmp c i v s).si = s.si := rfl
@[simp] theorem setSmp_siValid (c i : Nat) (v : Word) : (setSmp c i v s).siValid = s.siValid := rfl
@[simp] theorem setSmp_fh (c i : Nat) (v : Word) : (setSmp c i v s).fh = s.fh := rfl
@[simp] theorem setSmp_sf (c i : Nat) (v : Word) : (setSmp c i v s).sf = s.sf := rfl
@[simp] theorem setSmp_qlp (c i : Nat) (v : Word) : (setSmp c i v s).qlp = s.qlp := rfl
@[simp] theorem setSmp_undef (c i : Nat) (v : Word) : (setSmp c i v s).undef = s.undef := rfl
@[simp] theorem setSmp_undefRead (c i : Nat) (v : Word) : (setSmp c i v s).undefRead = s.undefRead := rfl
@[simp] theorem setSmp_spoiled (c i : Nat) (v : Word) : (setSmp c i v s).spoiled = s.spoiled := rfl
@[simp] theorem setSmp_buf (c i : Nat) (v : Word) : (setSmp c i v s).buf = s.buf := rfl
@[simp] theorem setSmp_res (c i : Nat) (v : Word) : (setSmp c i v s).res = s.res := rfl
@[simp] theorem setSmp_smp (c i : Nat) (v : Word) : (setSmp c i v s).smp = cellSet s.smp (smpAddress c i) v := rfl
@[simp] theorem setSmp_snap (c i : Nat) (v : Word) : (setSmp c i v s).snap = s.snap := rfl
@[simp] theorem setSmp_freeCtr (c i : Nat) (v : Word) : (setSmp c i v s).freeCtr = s.freeCtr := rfl
@[simp] theorem setSmp_sub (c i : Nat) (v : Word) : (setSmp c i v s).sub = s.sub := rfl
@[simp] theorem setSmp_inbox (c i : Nat) (v : Word) : (setSmp c i v s).inbox = s.inbox := rfl
@[simp] theorem setSmp_hostData (c i : Nat) (v : Word) : (setSmp c i v s).hostData = s.hostData := rfl

/-! setFrameHeader. -/

@[simp] theorem setFrameHeader_cfg (h : FrameHeader) : (setFrameHeader h s).cfg = s.cfg := rfl
@[simp] theorem setFrameHeader_pos (h : FrameHeader) : (setFrameHeader h s).pos = s.pos := rfl
@[simp] theorem setFrameHeader_len (h : FrameHeader) : (setFrameHeader h s).len = s.len := rfl
@[simp] theorem setFrameHeader_crc8 (h : FrameHeader) : (setFrameHeader h s).crc8 = s.crc8 := rfl
@[simp] theorem setFrameHeader_crc16 (h : FrameHeader) : (setFrameHeader h s).crc16 = s.crc16 := rfl
@[simp] theorem setFrameHeader_result (h : FrameHeader) : (setFrameHeader h s).result = s.result := rfl
@[simp] theorem setFrameHeader_code (h : FrameHeader) : (setFrameHeader h s).code = s.code := rfl
@[simp] theorem setFrameHeader_valid (h : FrameHeader) : (setFrameHeader h s).valid = s.valid := rfl
@[simp] theorem setFrameHeader_sticky (h : FrameHeader) : (setFrameHeader h s).sticky = s.sticky := rfl
@[simp] theorem setFrameHeader_scan (h : FrameHeader) : (setFrameHeader h s).scan = s.scan := rfl
@[simp] theorem setFrameHeader_si (h : FrameHeader) : (setFrameHeader h s).si = s.si := rfl
@[simp] theorem setFrameHeader_siValid (h : FrameHeader) : (setFrameHeader h s).siValid = s.siValid := rfl
@[simp] theorem setFrameHeader_fh (h : FrameHeader) : (setFrameHeader h s).fh = h := rfl
@[simp] theorem setFrameHeader_sf (h : FrameHeader) : (setFrameHeader h s).sf = s.sf := rfl
@[simp] theorem setFrameHeader_qlp (h : FrameHeader) : (setFrameHeader h s).qlp = s.qlp := rfl
@[simp] theorem setFrameHeader_undef (h : FrameHeader) : (setFrameHeader h s).undef = s.undef &&& ~~~(markRange 0x20 8) := rfl
@[simp] theorem setFrameHeader_undefRead (h : FrameHeader) : (setFrameHeader h s).undefRead = s.undefRead := rfl
@[simp] theorem setFrameHeader_spoiled (h : FrameHeader) : (setFrameHeader h s).spoiled = s.spoiled := rfl
@[simp] theorem setFrameHeader_buf (h : FrameHeader) : (setFrameHeader h s).buf = s.buf := rfl
@[simp] theorem setFrameHeader_res (h : FrameHeader) : (setFrameHeader h s).res = s.res := rfl
@[simp] theorem setFrameHeader_smp (h : FrameHeader) : (setFrameHeader h s).smp = s.smp := rfl
@[simp] theorem setFrameHeader_snap (h : FrameHeader) : (setFrameHeader h s).snap = s.snap := rfl
@[simp] theorem setFrameHeader_freeCtr (h : FrameHeader) : (setFrameHeader h s).freeCtr = s.freeCtr := rfl
@[simp] theorem setFrameHeader_sub (h : FrameHeader) : (setFrameHeader h s).sub = s.sub := rfl
@[simp] theorem setFrameHeader_inbox (h : FrameHeader) : (setFrameHeader h s).inbox = s.inbox := rfl
@[simp] theorem setFrameHeader_hostData (h : FrameHeader) : (setFrameHeader h s).hostData = s.hostData := rfl

/-! setSubframeHeader. -/

@[simp] theorem setSubframeHeader_cfg (t order wasted : Nat) : (setSubframeHeader t order wasted s).cfg = s.cfg := rfl
@[simp] theorem setSubframeHeader_pos (t order wasted : Nat) : (setSubframeHeader t order wasted s).pos = s.pos := rfl
@[simp] theorem setSubframeHeader_len (t order wasted : Nat) : (setSubframeHeader t order wasted s).len = s.len := rfl
@[simp] theorem setSubframeHeader_crc8 (t order wasted : Nat) : (setSubframeHeader t order wasted s).crc8 = s.crc8 := rfl
@[simp] theorem setSubframeHeader_crc16 (t order wasted : Nat) : (setSubframeHeader t order wasted s).crc16 = s.crc16 := rfl
@[simp] theorem setSubframeHeader_result (t order wasted : Nat) : (setSubframeHeader t order wasted s).result = s.result := rfl
@[simp] theorem setSubframeHeader_code (t order wasted : Nat) : (setSubframeHeader t order wasted s).code = s.code := rfl
@[simp] theorem setSubframeHeader_valid (t order wasted : Nat) : (setSubframeHeader t order wasted s).valid = s.valid := rfl
@[simp] theorem setSubframeHeader_sticky (t order wasted : Nat) : (setSubframeHeader t order wasted s).sticky = s.sticky := rfl
@[simp] theorem setSubframeHeader_scan (t order wasted : Nat) : (setSubframeHeader t order wasted s).scan = s.scan := rfl
@[simp] theorem setSubframeHeader_si (t order wasted : Nat) : (setSubframeHeader t order wasted s).si = s.si := rfl
@[simp] theorem setSubframeHeader_siValid (t order wasted : Nat) : (setSubframeHeader t order wasted s).siValid = s.siValid := rfl
@[simp] theorem setSubframeHeader_fh (t order wasted : Nat) : (setSubframeHeader t order wasted s).fh = s.fh := rfl
@[simp] theorem setSubframeHeader_sf (t order wasted : Nat) : (setSubframeHeader t order wasted s).sf =
    { s.sf with
      type := BitVec.ofNat 6 t
      order := BitVec.ofNat 6 order
      wasted := BitVec.ofNat 6 wasted } := rfl
@[simp] theorem setSubframeHeader_qlp (t order wasted : Nat) : (setSubframeHeader t order wasted s).qlp = s.qlp := rfl
@[simp] theorem setSubframeHeader_undef (t order wasted : Nat) : (setSubframeHeader t order wasted s).undef = s.undef &&& ~~~(markRange 0x30 3) := rfl
@[simp] theorem setSubframeHeader_undefRead (t order wasted : Nat) : (setSubframeHeader t order wasted s).undefRead = s.undefRead := rfl
@[simp] theorem setSubframeHeader_spoiled (t order wasted : Nat) : (setSubframeHeader t order wasted s).spoiled = s.spoiled := rfl
@[simp] theorem setSubframeHeader_buf (t order wasted : Nat) : (setSubframeHeader t order wasted s).buf = s.buf := rfl
@[simp] theorem setSubframeHeader_res (t order wasted : Nat) : (setSubframeHeader t order wasted s).res = s.res := rfl
@[simp] theorem setSubframeHeader_smp (t order wasted : Nat) : (setSubframeHeader t order wasted s).smp = s.smp := rfl
@[simp] theorem setSubframeHeader_snap (t order wasted : Nat) : (setSubframeHeader t order wasted s).snap = s.snap := rfl
@[simp] theorem setSubframeHeader_freeCtr (t order wasted : Nat) : (setSubframeHeader t order wasted s).freeCtr = s.freeCtr := rfl
@[simp] theorem setSubframeHeader_sub (t order wasted : Nat) : (setSubframeHeader t order wasted s).sub = s.sub := rfl
@[simp] theorem setSubframeHeader_inbox (t order wasted : Nat) : (setSubframeHeader t order wasted s).inbox = s.inbox := rfl
@[simp] theorem setSubframeHeader_hostData (t order wasted : Nat) : (setSubframeHeader t order wasted s).hostData = s.hostData := rfl

/-! setPrec. -/

@[simp] theorem setPrec_cfg (p : Nat) : (setPrec p s).cfg = s.cfg := rfl
@[simp] theorem setPrec_pos (p : Nat) : (setPrec p s).pos = s.pos := rfl
@[simp] theorem setPrec_len (p : Nat) : (setPrec p s).len = s.len := rfl
@[simp] theorem setPrec_crc8 (p : Nat) : (setPrec p s).crc8 = s.crc8 := rfl
@[simp] theorem setPrec_crc16 (p : Nat) : (setPrec p s).crc16 = s.crc16 := rfl
@[simp] theorem setPrec_result (p : Nat) : (setPrec p s).result = s.result := rfl
@[simp] theorem setPrec_code (p : Nat) : (setPrec p s).code = s.code := rfl
@[simp] theorem setPrec_valid (p : Nat) : (setPrec p s).valid = s.valid := rfl
@[simp] theorem setPrec_sticky (p : Nat) : (setPrec p s).sticky = s.sticky := rfl
@[simp] theorem setPrec_scan (p : Nat) : (setPrec p s).scan = s.scan := rfl
@[simp] theorem setPrec_si (p : Nat) : (setPrec p s).si = s.si := rfl
@[simp] theorem setPrec_siValid (p : Nat) : (setPrec p s).siValid = s.siValid := rfl
@[simp] theorem setPrec_fh (p : Nat) : (setPrec p s).fh = s.fh := rfl
@[simp] theorem setPrec_sf (p : Nat) : (setPrec p s).sf = { s.sf with prec := BitVec.ofNat 5 p } := rfl
@[simp] theorem setPrec_qlp (p : Nat) : (setPrec p s).qlp = s.qlp := rfl
@[simp] theorem setPrec_undef (p : Nat) : (setPrec p s).undef = clearMark 0x33 s.undef := rfl
@[simp] theorem setPrec_undefRead (p : Nat) : (setPrec p s).undefRead = s.undefRead := rfl
@[simp] theorem setPrec_spoiled (p : Nat) : (setPrec p s).spoiled = s.spoiled := rfl
@[simp] theorem setPrec_buf (p : Nat) : (setPrec p s).buf = s.buf := rfl
@[simp] theorem setPrec_res (p : Nat) : (setPrec p s).res = s.res := rfl
@[simp] theorem setPrec_smp (p : Nat) : (setPrec p s).smp = s.smp := rfl
@[simp] theorem setPrec_snap (p : Nat) : (setPrec p s).snap = s.snap := rfl
@[simp] theorem setPrec_freeCtr (p : Nat) : (setPrec p s).freeCtr = s.freeCtr := rfl
@[simp] theorem setPrec_sub (p : Nat) : (setPrec p s).sub = s.sub := rfl
@[simp] theorem setPrec_inbox (p : Nat) : (setPrec p s).inbox = s.inbox := rfl
@[simp] theorem setPrec_hostData (p : Nat) : (setPrec p s).hostData = s.hostData := rfl

/-! setShift. -/

@[simp] theorem setShift_cfg (v : BitVec 5) : (setShift v s).cfg = s.cfg := rfl
@[simp] theorem setShift_pos (v : BitVec 5) : (setShift v s).pos = s.pos := rfl
@[simp] theorem setShift_len (v : BitVec 5) : (setShift v s).len = s.len := rfl
@[simp] theorem setShift_crc8 (v : BitVec 5) : (setShift v s).crc8 = s.crc8 := rfl
@[simp] theorem setShift_crc16 (v : BitVec 5) : (setShift v s).crc16 = s.crc16 := rfl
@[simp] theorem setShift_result (v : BitVec 5) : (setShift v s).result = s.result := rfl
@[simp] theorem setShift_code (v : BitVec 5) : (setShift v s).code = s.code := rfl
@[simp] theorem setShift_valid (v : BitVec 5) : (setShift v s).valid = s.valid := rfl
@[simp] theorem setShift_sticky (v : BitVec 5) : (setShift v s).sticky = s.sticky := rfl
@[simp] theorem setShift_scan (v : BitVec 5) : (setShift v s).scan = s.scan := rfl
@[simp] theorem setShift_si (v : BitVec 5) : (setShift v s).si = s.si := rfl
@[simp] theorem setShift_siValid (v : BitVec 5) : (setShift v s).siValid = s.siValid := rfl
@[simp] theorem setShift_fh (v : BitVec 5) : (setShift v s).fh = s.fh := rfl
@[simp] theorem setShift_sf (v : BitVec 5) : (setShift v s).sf = { s.sf with shift := v } := rfl
@[simp] theorem setShift_qlp (v : BitVec 5) : (setShift v s).qlp = s.qlp := rfl
@[simp] theorem setShift_undef (v : BitVec 5) : (setShift v s).undef = clearMark 0x34 s.undef := rfl
@[simp] theorem setShift_undefRead (v : BitVec 5) : (setShift v s).undefRead = s.undefRead := rfl
@[simp] theorem setShift_spoiled (v : BitVec 5) : (setShift v s).spoiled = s.spoiled := rfl
@[simp] theorem setShift_buf (v : BitVec 5) : (setShift v s).buf = s.buf := rfl
@[simp] theorem setShift_res (v : BitVec 5) : (setShift v s).res = s.res := rfl
@[simp] theorem setShift_smp (v : BitVec 5) : (setShift v s).smp = s.smp := rfl
@[simp] theorem setShift_snap (v : BitVec 5) : (setShift v s).snap = s.snap := rfl
@[simp] theorem setShift_freeCtr (v : BitVec 5) : (setShift v s).freeCtr = s.freeCtr := rfl
@[simp] theorem setShift_sub (v : BitVec 5) : (setShift v s).sub = s.sub := rfl
@[simp] theorem setShift_inbox (v : BitVec 5) : (setShift v s).inbox = s.inbox := rfl
@[simp] theorem setShift_hostData (v : BitVec 5) : (setShift v s).hostData = s.hostData := rfl

/-! setQlp. -/

@[simp] theorem setQlp_cfg (j : Nat) (v : BitVec 16) : (setQlp j v s).cfg = s.cfg := rfl
@[simp] theorem setQlp_pos (j : Nat) (v : BitVec 16) : (setQlp j v s).pos = s.pos := rfl
@[simp] theorem setQlp_len (j : Nat) (v : BitVec 16) : (setQlp j v s).len = s.len := rfl
@[simp] theorem setQlp_crc8 (j : Nat) (v : BitVec 16) : (setQlp j v s).crc8 = s.crc8 := rfl
@[simp] theorem setQlp_crc16 (j : Nat) (v : BitVec 16) : (setQlp j v s).crc16 = s.crc16 := rfl
@[simp] theorem setQlp_result (j : Nat) (v : BitVec 16) : (setQlp j v s).result = s.result := rfl
@[simp] theorem setQlp_code (j : Nat) (v : BitVec 16) : (setQlp j v s).code = s.code := rfl
@[simp] theorem setQlp_valid (j : Nat) (v : BitVec 16) : (setQlp j v s).valid = s.valid := rfl
@[simp] theorem setQlp_sticky (j : Nat) (v : BitVec 16) : (setQlp j v s).sticky = s.sticky := rfl
@[simp] theorem setQlp_scan (j : Nat) (v : BitVec 16) : (setQlp j v s).scan = s.scan := rfl
@[simp] theorem setQlp_si (j : Nat) (v : BitVec 16) : (setQlp j v s).si = s.si := rfl
@[simp] theorem setQlp_siValid (j : Nat) (v : BitVec 16) : (setQlp j v s).siValid = s.siValid := rfl
@[simp] theorem setQlp_fh (j : Nat) (v : BitVec 16) : (setQlp j v s).fh = s.fh := rfl
@[simp] theorem setQlp_sf (j : Nat) (v : BitVec 16) : (setQlp j v s).sf = s.sf := rfl
@[simp] theorem setQlp_qlp (j : Nat) (v : BitVec 16) : (setQlp j v s).qlp = s.qlp.setIfInBounds j v := rfl
@[simp] theorem setQlp_undef (j : Nat) (v : BitVec 16) : (setQlp j v s).undef = clearMark (0x40 + j) s.undef := rfl
@[simp] theorem setQlp_undefRead (j : Nat) (v : BitVec 16) : (setQlp j v s).undefRead = s.undefRead := rfl
@[simp] theorem setQlp_spoiled (j : Nat) (v : BitVec 16) : (setQlp j v s).spoiled = s.spoiled := rfl
@[simp] theorem setQlp_buf (j : Nat) (v : BitVec 16) : (setQlp j v s).buf = s.buf := rfl
@[simp] theorem setQlp_res (j : Nat) (v : BitVec 16) : (setQlp j v s).res = s.res := rfl
@[simp] theorem setQlp_smp (j : Nat) (v : BitVec 16) : (setQlp j v s).smp = s.smp := rfl
@[simp] theorem setQlp_snap (j : Nat) (v : BitVec 16) : (setQlp j v s).snap = s.snap := rfl
@[simp] theorem setQlp_freeCtr (j : Nat) (v : BitVec 16) : (setQlp j v s).freeCtr = s.freeCtr := rfl
@[simp] theorem setQlp_sub (j : Nat) (v : BitVec 16) : (setQlp j v s).sub = s.sub := rfl
@[simp] theorem setQlp_inbox (j : Nat) (v : BitVec 16) : (setQlp j v s).inbox = s.inbox := rfl
@[simp] theorem setQlp_hostData (j : Nat) (v : BitVec 16) : (setQlp j v s).hostData = s.hostData := rfl

/-! setCode. -/

@[simp] theorem setCode_cfg (c : Code) : (setCode c s).cfg = s.cfg := rfl
@[simp] theorem setCode_pos (c : Code) : (setCode c s).pos = s.pos := rfl
@[simp] theorem setCode_len (c : Code) : (setCode c s).len = s.len := rfl
@[simp] theorem setCode_crc8 (c : Code) : (setCode c s).crc8 = s.crc8 := rfl
@[simp] theorem setCode_crc16 (c : Code) : (setCode c s).crc16 = s.crc16 := rfl
@[simp] theorem setCode_result (c : Code) : (setCode c s).result = s.result := rfl
@[simp] theorem setCode_code (c : Code) : (setCode c s).code = c := rfl
@[simp] theorem setCode_valid (c : Code) : (setCode c s).valid = s.valid := rfl
@[simp] theorem setCode_sticky (c : Code) : (setCode c s).sticky = s.sticky := rfl
@[simp] theorem setCode_scan (c : Code) : (setCode c s).scan = s.scan := rfl
@[simp] theorem setCode_si (c : Code) : (setCode c s).si = s.si := rfl
@[simp] theorem setCode_siValid (c : Code) : (setCode c s).siValid = s.siValid := rfl
@[simp] theorem setCode_fh (c : Code) : (setCode c s).fh = s.fh := rfl
@[simp] theorem setCode_sf (c : Code) : (setCode c s).sf = s.sf := rfl
@[simp] theorem setCode_qlp (c : Code) : (setCode c s).qlp = s.qlp := rfl
@[simp] theorem setCode_undef (c : Code) : (setCode c s).undef = s.undef := rfl
@[simp] theorem setCode_undefRead (c : Code) : (setCode c s).undefRead = s.undefRead := rfl
@[simp] theorem setCode_spoiled (c : Code) : (setCode c s).spoiled = s.spoiled := rfl
@[simp] theorem setCode_buf (c : Code) : (setCode c s).buf = s.buf := rfl
@[simp] theorem setCode_res (c : Code) : (setCode c s).res = s.res := rfl
@[simp] theorem setCode_smp (c : Code) : (setCode c s).smp = s.smp := rfl
@[simp] theorem setCode_snap (c : Code) : (setCode c s).snap = s.snap := rfl
@[simp] theorem setCode_freeCtr (c : Code) : (setCode c s).freeCtr = s.freeCtr := rfl
@[simp] theorem setCode_sub (c : Code) : (setCode c s).sub = s.sub := rfl
@[simp] theorem setCode_inbox (c : Code) : (setCode c s).inbox = s.inbox := rfl
@[simp] theorem setCode_hostData (c : Code) : (setCode c s).hostData = s.hostData := rfl

/-! setValid. -/

@[simp] theorem setValid_cfg (v : Bool) : (setValid v s).cfg = s.cfg := rfl
@[simp] theorem setValid_pos (v : Bool) : (setValid v s).pos = s.pos := rfl
@[simp] theorem setValid_len (v : Bool) : (setValid v s).len = s.len := rfl
@[simp] theorem setValid_crc8 (v : Bool) : (setValid v s).crc8 = s.crc8 := rfl
@[simp] theorem setValid_crc16 (v : Bool) : (setValid v s).crc16 = s.crc16 := rfl
@[simp] theorem setValid_result (v : Bool) : (setValid v s).result = s.result := rfl
@[simp] theorem setValid_code (v : Bool) : (setValid v s).code = s.code := rfl
@[simp] theorem setValid_valid (v : Bool) : (setValid v s).valid = v := rfl
@[simp] theorem setValid_sticky (v : Bool) : (setValid v s).sticky = s.sticky := rfl
@[simp] theorem setValid_scan (v : Bool) : (setValid v s).scan = s.scan := rfl
@[simp] theorem setValid_si (v : Bool) : (setValid v s).si = s.si := rfl
@[simp] theorem setValid_siValid (v : Bool) : (setValid v s).siValid = s.siValid := rfl
@[simp] theorem setValid_fh (v : Bool) : (setValid v s).fh = s.fh := rfl
@[simp] theorem setValid_sf (v : Bool) : (setValid v s).sf = s.sf := rfl
@[simp] theorem setValid_qlp (v : Bool) : (setValid v s).qlp = s.qlp := rfl
@[simp] theorem setValid_undef (v : Bool) : (setValid v s).undef = s.undef := rfl
@[simp] theorem setValid_undefRead (v : Bool) : (setValid v s).undefRead = s.undefRead := rfl
@[simp] theorem setValid_spoiled (v : Bool) : (setValid v s).spoiled = s.spoiled := rfl
@[simp] theorem setValid_buf (v : Bool) : (setValid v s).buf = s.buf := rfl
@[simp] theorem setValid_res (v : Bool) : (setValid v s).res = s.res := rfl
@[simp] theorem setValid_smp (v : Bool) : (setValid v s).smp = s.smp := rfl
@[simp] theorem setValid_snap (v : Bool) : (setValid v s).snap = s.snap := rfl
@[simp] theorem setValid_freeCtr (v : Bool) : (setValid v s).freeCtr = s.freeCtr := rfl
@[simp] theorem setValid_sub (v : Bool) : (setValid v s).sub = s.sub := rfl
@[simp] theorem setValid_inbox (v : Bool) : (setValid v s).inbox = s.inbox := rfl
@[simp] theorem setValid_hostData (v : Bool) : (setValid v s).hostData = s.hostData := rfl

/-! setSticky. -/

@[simp] theorem setSticky_cfg (v : Bool) : (setSticky v s).cfg = s.cfg := rfl
@[simp] theorem setSticky_pos (v : Bool) : (setSticky v s).pos = s.pos := rfl
@[simp] theorem setSticky_len (v : Bool) : (setSticky v s).len = s.len := rfl
@[simp] theorem setSticky_crc8 (v : Bool) : (setSticky v s).crc8 = s.crc8 := rfl
@[simp] theorem setSticky_crc16 (v : Bool) : (setSticky v s).crc16 = s.crc16 := rfl
@[simp] theorem setSticky_result (v : Bool) : (setSticky v s).result = s.result := rfl
@[simp] theorem setSticky_code (v : Bool) : (setSticky v s).code = s.code := rfl
@[simp] theorem setSticky_valid (v : Bool) : (setSticky v s).valid = s.valid := rfl
@[simp] theorem setSticky_sticky (v : Bool) : (setSticky v s).sticky = v := rfl
@[simp] theorem setSticky_scan (v : Bool) : (setSticky v s).scan = s.scan := rfl
@[simp] theorem setSticky_si (v : Bool) : (setSticky v s).si = s.si := rfl
@[simp] theorem setSticky_siValid (v : Bool) : (setSticky v s).siValid = s.siValid := rfl
@[simp] theorem setSticky_fh (v : Bool) : (setSticky v s).fh = s.fh := rfl
@[simp] theorem setSticky_sf (v : Bool) : (setSticky v s).sf = s.sf := rfl
@[simp] theorem setSticky_qlp (v : Bool) : (setSticky v s).qlp = s.qlp := rfl
@[simp] theorem setSticky_undef (v : Bool) : (setSticky v s).undef = s.undef := rfl
@[simp] theorem setSticky_undefRead (v : Bool) : (setSticky v s).undefRead = s.undefRead := rfl
@[simp] theorem setSticky_spoiled (v : Bool) : (setSticky v s).spoiled = s.spoiled := rfl
@[simp] theorem setSticky_buf (v : Bool) : (setSticky v s).buf = s.buf := rfl
@[simp] theorem setSticky_res (v : Bool) : (setSticky v s).res = s.res := rfl
@[simp] theorem setSticky_smp (v : Bool) : (setSticky v s).smp = s.smp := rfl
@[simp] theorem setSticky_snap (v : Bool) : (setSticky v s).snap = s.snap := rfl
@[simp] theorem setSticky_freeCtr (v : Bool) : (setSticky v s).freeCtr = s.freeCtr := rfl
@[simp] theorem setSticky_sub (v : Bool) : (setSticky v s).sub = s.sub := rfl
@[simp] theorem setSticky_inbox (v : Bool) : (setSticky v s).inbox = s.inbox := rfl
@[simp] theorem setSticky_hostData (v : Bool) : (setSticky v s).hostData = s.hostData := rfl

/-! undefRes. -/

@[simp] theorem undefRes_cfg (lo count : Nat) : (undefRes lo count s).cfg = s.cfg := rfl
@[simp] theorem undefRes_pos (lo count : Nat) : (undefRes lo count s).pos = s.pos := rfl
@[simp] theorem undefRes_len (lo count : Nat) : (undefRes lo count s).len = s.len := rfl
@[simp] theorem undefRes_crc8 (lo count : Nat) : (undefRes lo count s).crc8 = s.crc8 := rfl
@[simp] theorem undefRes_crc16 (lo count : Nat) : (undefRes lo count s).crc16 = s.crc16 := rfl
@[simp] theorem undefRes_result (lo count : Nat) : (undefRes lo count s).result = s.result := rfl
@[simp] theorem undefRes_code (lo count : Nat) : (undefRes lo count s).code = s.code := rfl
@[simp] theorem undefRes_valid (lo count : Nat) : (undefRes lo count s).valid = s.valid := rfl
@[simp] theorem undefRes_sticky (lo count : Nat) : (undefRes lo count s).sticky = s.sticky := rfl
@[simp] theorem undefRes_scan (lo count : Nat) : (undefRes lo count s).scan = s.scan := rfl
@[simp] theorem undefRes_si (lo count : Nat) : (undefRes lo count s).si = s.si := rfl
@[simp] theorem undefRes_siValid (lo count : Nat) : (undefRes lo count s).siValid = s.siValid := rfl
@[simp] theorem undefRes_fh (lo count : Nat) : (undefRes lo count s).fh = s.fh := rfl
@[simp] theorem undefRes_sf (lo count : Nat) : (undefRes lo count s).sf = s.sf := rfl
@[simp] theorem undefRes_qlp (lo count : Nat) : (undefRes lo count s).qlp = s.qlp := rfl
@[simp] theorem undefRes_undef (lo count : Nat) : (undefRes lo count s).undef = s.undef := rfl
@[simp] theorem undefRes_undefRead (lo count : Nat) : (undefRes lo count s).undefRead = s.undefRead := rfl
@[simp] theorem undefRes_spoiled (lo count : Nat) : (undefRes lo count s).spoiled = s.spoiled := rfl
@[simp] theorem undefRes_buf (lo count : Nat) : (undefRes lo count s).buf = s.buf := rfl
@[simp] theorem undefRes_res (lo count : Nat) : (undefRes lo count s).res = cellErase s.res lo count := rfl
@[simp] theorem undefRes_smp (lo count : Nat) : (undefRes lo count s).smp = s.smp := rfl
@[simp] theorem undefRes_snap (lo count : Nat) : (undefRes lo count s).snap = s.snap := rfl
@[simp] theorem undefRes_freeCtr (lo count : Nat) : (undefRes lo count s).freeCtr = s.freeCtr := rfl
@[simp] theorem undefRes_sub (lo count : Nat) : (undefRes lo count s).sub = s.sub := rfl
@[simp] theorem undefRes_inbox (lo count : Nat) : (undefRes lo count s).inbox = s.inbox := rfl
@[simp] theorem undefRes_hostData (lo count : Nat) : (undefRes lo count s).hostData = s.hostData := rfl

/-! undefSmp. -/

@[simp] theorem undefSmp_cfg (c lo count : Nat) : (undefSmp c lo count s).cfg = s.cfg := rfl
@[simp] theorem undefSmp_pos (c lo count : Nat) : (undefSmp c lo count s).pos = s.pos := rfl
@[simp] theorem undefSmp_len (c lo count : Nat) : (undefSmp c lo count s).len = s.len := rfl
@[simp] theorem undefSmp_crc8 (c lo count : Nat) : (undefSmp c lo count s).crc8 = s.crc8 := rfl
@[simp] theorem undefSmp_crc16 (c lo count : Nat) : (undefSmp c lo count s).crc16 = s.crc16 := rfl
@[simp] theorem undefSmp_result (c lo count : Nat) : (undefSmp c lo count s).result = s.result := rfl
@[simp] theorem undefSmp_code (c lo count : Nat) : (undefSmp c lo count s).code = s.code := rfl
@[simp] theorem undefSmp_valid (c lo count : Nat) : (undefSmp c lo count s).valid = s.valid := rfl
@[simp] theorem undefSmp_sticky (c lo count : Nat) : (undefSmp c lo count s).sticky = s.sticky := rfl
@[simp] theorem undefSmp_scan (c lo count : Nat) : (undefSmp c lo count s).scan = s.scan := rfl
@[simp] theorem undefSmp_si (c lo count : Nat) : (undefSmp c lo count s).si = s.si := rfl
@[simp] theorem undefSmp_siValid (c lo count : Nat) : (undefSmp c lo count s).siValid = s.siValid := rfl
@[simp] theorem undefSmp_fh (c lo count : Nat) : (undefSmp c lo count s).fh = s.fh := rfl
@[simp] theorem undefSmp_sf (c lo count : Nat) : (undefSmp c lo count s).sf = s.sf := rfl
@[simp] theorem undefSmp_qlp (c lo count : Nat) : (undefSmp c lo count s).qlp = s.qlp := rfl
@[simp] theorem undefSmp_undef (c lo count : Nat) : (undefSmp c lo count s).undef = s.undef := rfl
@[simp] theorem undefSmp_undefRead (c lo count : Nat) : (undefSmp c lo count s).undefRead = s.undefRead := rfl
@[simp] theorem undefSmp_spoiled (c lo count : Nat) : (undefSmp c lo count s).spoiled = s.spoiled := rfl
@[simp] theorem undefSmp_buf (c lo count : Nat) : (undefSmp c lo count s).buf = s.buf := rfl
@[simp] theorem undefSmp_res (c lo count : Nat) : (undefSmp c lo count s).res = s.res := rfl
@[simp] theorem undefSmp_smp (c lo count : Nat) : (undefSmp c lo count s).smp = cellErase s.smp (smpAddress c lo) count := rfl
@[simp] theorem undefSmp_snap (c lo count : Nat) : (undefSmp c lo count s).snap = s.snap := rfl
@[simp] theorem undefSmp_freeCtr (c lo count : Nat) : (undefSmp c lo count s).freeCtr = s.freeCtr := rfl
@[simp] theorem undefSmp_sub (c lo count : Nat) : (undefSmp c lo count s).sub = s.sub := rfl
@[simp] theorem undefSmp_inbox (c lo count : Nat) : (undefSmp c lo count s).inbox = s.inbox := rfl
@[simp] theorem undefSmp_hostData (c lo count : Nat) : (undefSmp c lo count s).hostData = s.hostData := rfl

/-! beginCommand. -/

@[simp] theorem beginCommand_cfg : (beginCommand s).cfg = s.cfg := rfl
@[simp] theorem beginCommand_pos : (beginCommand s).pos = s.pos := rfl
@[simp] theorem beginCommand_len : (beginCommand s).len = s.len := rfl
@[simp] theorem beginCommand_crc8 : (beginCommand s).crc8 = s.crc8 := rfl
@[simp] theorem beginCommand_crc16 : (beginCommand s).crc16 = s.crc16 := rfl
@[simp] theorem beginCommand_result : (beginCommand s).result = s.result := rfl
@[simp] theorem beginCommand_code : (beginCommand s).code = s.code := rfl
@[simp] theorem beginCommand_valid : (beginCommand s).valid = s.valid := rfl
@[simp] theorem beginCommand_sticky : (beginCommand s).sticky = s.sticky := rfl
@[simp] theorem beginCommand_scan : (beginCommand s).scan = s.scan := rfl
@[simp] theorem beginCommand_si : (beginCommand s).si = s.si := rfl
@[simp] theorem beginCommand_siValid : (beginCommand s).siValid = s.siValid := rfl
@[simp] theorem beginCommand_fh : (beginCommand s).fh = s.fh := rfl
@[simp] theorem beginCommand_sf : (beginCommand s).sf = s.sf := rfl
@[simp] theorem beginCommand_qlp : (beginCommand s).qlp = s.qlp := rfl
@[simp] theorem beginCommand_undef : (beginCommand s).undef = s.undef := rfl
@[simp] theorem beginCommand_undefRead : (beginCommand s).undefRead = s.undefRead := rfl
@[simp] theorem beginCommand_spoiled : (beginCommand s).spoiled = s.spoiled := rfl
@[simp] theorem beginCommand_buf : (beginCommand s).buf = s.buf := rfl
@[simp] theorem beginCommand_res : (beginCommand s).res = s.res := rfl
@[simp] theorem beginCommand_smp : (beginCommand s).smp = s.smp := rfl
@[simp] theorem beginCommand_snap : (beginCommand s).snap = some { pos := s.pos, crc8 := s.crc8, crc16 := s.crc16, result := s.result } := rfl
@[simp] theorem beginCommand_freeCtr : (beginCommand s).freeCtr = s.freeCtr := rfl
@[simp] theorem beginCommand_sub : (beginCommand s).sub = s.sub := rfl
@[simp] theorem beginCommand_inbox : (beginCommand s).inbox = s.inbox := rfl
@[simp] theorem beginCommand_hostData : (beginCommand s).hostData = s.hostData := rfl

/-! endCommand. -/

@[simp] theorem endCommand_cfg (c : Code) : (endCommand c s).cfg = s.cfg := rfl
@[simp] theorem endCommand_pos (c : Code) : (endCommand c s).pos = s.pos := rfl
@[simp] theorem endCommand_len (c : Code) : (endCommand c s).len = s.len := rfl
@[simp] theorem endCommand_crc8 (c : Code) : (endCommand c s).crc8 = s.crc8 := rfl
@[simp] theorem endCommand_crc16 (c : Code) : (endCommand c s).crc16 = s.crc16 := rfl
@[simp] theorem endCommand_result (c : Code) : (endCommand c s).result = s.result := rfl
@[simp] theorem endCommand_code (c : Code) : (endCommand c s).code = c := rfl
@[simp] theorem endCommand_valid (c : Code) : (endCommand c s).valid = s.valid := rfl
@[simp] theorem endCommand_sticky (c : Code) : (endCommand c s).sticky = s.sticky := rfl
@[simp] theorem endCommand_scan (c : Code) : (endCommand c s).scan = s.scan := rfl
@[simp] theorem endCommand_si (c : Code) : (endCommand c s).si = s.si := rfl
@[simp] theorem endCommand_siValid (c : Code) : (endCommand c s).siValid = s.siValid := rfl
@[simp] theorem endCommand_fh (c : Code) : (endCommand c s).fh = s.fh := rfl
@[simp] theorem endCommand_sf (c : Code) : (endCommand c s).sf = s.sf := rfl
@[simp] theorem endCommand_qlp (c : Code) : (endCommand c s).qlp = s.qlp := rfl
@[simp] theorem endCommand_undef (c : Code) : (endCommand c s).undef = s.undef := rfl
@[simp] theorem endCommand_undefRead (c : Code) : (endCommand c s).undefRead = s.undefRead := rfl
@[simp] theorem endCommand_spoiled (c : Code) : (endCommand c s).spoiled = s.spoiled := rfl
@[simp] theorem endCommand_buf (c : Code) : (endCommand c s).buf = s.buf := rfl
@[simp] theorem endCommand_res (c : Code) : (endCommand c s).res = s.res := rfl
@[simp] theorem endCommand_smp (c : Code) : (endCommand c s).smp = s.smp := rfl
@[simp] theorem endCommand_snap (c : Code) : (endCommand c s).snap = none := rfl
@[simp] theorem endCommand_freeCtr (c : Code) : (endCommand c s).freeCtr = s.freeCtr := rfl
@[simp] theorem endCommand_sub (c : Code) : (endCommand c s).sub = s.sub := rfl
@[simp] theorem endCommand_inbox (c : Code) : (endCommand c s).inbox = s.inbox := rfl
@[simp] theorem endCommand_hostData (c : Code) : (endCommand c s).hostData = s.hostData := rfl

/-! undefSubframeRegs: the fields it keeps. -/

@[simp] theorem undefSubframeRegs_cfg : (undefSubframeRegs s).cfg = s.cfg := rfl
@[simp] theorem undefSubframeRegs_pos : (undefSubframeRegs s).pos = s.pos := rfl
@[simp] theorem undefSubframeRegs_len : (undefSubframeRegs s).len = s.len := rfl
@[simp] theorem undefSubframeRegs_crc8 : (undefSubframeRegs s).crc8 = s.crc8 := rfl
@[simp] theorem undefSubframeRegs_crc16 : (undefSubframeRegs s).crc16 = s.crc16 := rfl
@[simp] theorem undefSubframeRegs_result : (undefSubframeRegs s).result = s.result := rfl
@[simp] theorem undefSubframeRegs_code : (undefSubframeRegs s).code = s.code := rfl
@[simp] theorem undefSubframeRegs_valid : (undefSubframeRegs s).valid = s.valid := rfl
@[simp] theorem undefSubframeRegs_sticky : (undefSubframeRegs s).sticky = s.sticky := rfl
@[simp] theorem undefSubframeRegs_scan : (undefSubframeRegs s).scan = s.scan := rfl
@[simp] theorem undefSubframeRegs_si : (undefSubframeRegs s).si = s.si := rfl
@[simp] theorem undefSubframeRegs_siValid : (undefSubframeRegs s).siValid = s.siValid := rfl
@[simp] theorem undefSubframeRegs_fh : (undefSubframeRegs s).fh = s.fh := rfl
@[simp] theorem undefSubframeRegs_undefRead : (undefSubframeRegs s).undefRead = s.undefRead := rfl
@[simp] theorem undefSubframeRegs_buf : (undefSubframeRegs s).buf = s.buf := rfl
@[simp] theorem undefSubframeRegs_res : (undefSubframeRegs s).res = s.res := rfl
@[simp] theorem undefSubframeRegs_smp : (undefSubframeRegs s).smp = s.smp := rfl
@[simp] theorem undefSubframeRegs_snap : (undefSubframeRegs s).snap = s.snap := rfl
@[simp] theorem undefSubframeRegs_sub : (undefSubframeRegs s).sub = s.sub := rfl
@[simp] theorem undefSubframeRegs_inbox : (undefSubframeRegs s).inbox = s.inbox := rfl
@[simp] theorem undefSubframeRegs_hostData : (undefSubframeRegs s).hostData = s.hostData := rfl

/-! undefFrameHeader: the fields it keeps. -/

@[simp] theorem undefFrameHeader_cfg : (undefFrameHeader s).cfg = s.cfg := rfl
@[simp] theorem undefFrameHeader_pos : (undefFrameHeader s).pos = s.pos := rfl
@[simp] theorem undefFrameHeader_len : (undefFrameHeader s).len = s.len := rfl
@[simp] theorem undefFrameHeader_crc8 : (undefFrameHeader s).crc8 = s.crc8 := rfl
@[simp] theorem undefFrameHeader_crc16 : (undefFrameHeader s).crc16 = s.crc16 := rfl
@[simp] theorem undefFrameHeader_result : (undefFrameHeader s).result = s.result := rfl
@[simp] theorem undefFrameHeader_code : (undefFrameHeader s).code = s.code := rfl
@[simp] theorem undefFrameHeader_valid : (undefFrameHeader s).valid = s.valid := rfl
@[simp] theorem undefFrameHeader_sticky : (undefFrameHeader s).sticky = s.sticky := rfl
@[simp] theorem undefFrameHeader_scan : (undefFrameHeader s).scan = s.scan := rfl
@[simp] theorem undefFrameHeader_si : (undefFrameHeader s).si = s.si := rfl
@[simp] theorem undefFrameHeader_siValid : (undefFrameHeader s).siValid = s.siValid := rfl
@[simp] theorem undefFrameHeader_sf : (undefFrameHeader s).sf = s.sf := rfl
@[simp] theorem undefFrameHeader_qlp : (undefFrameHeader s).qlp = s.qlp := rfl
@[simp] theorem undefFrameHeader_undefRead : (undefFrameHeader s).undefRead = s.undefRead := rfl
@[simp] theorem undefFrameHeader_buf : (undefFrameHeader s).buf = s.buf := rfl
@[simp] theorem undefFrameHeader_res : (undefFrameHeader s).res = s.res := rfl
@[simp] theorem undefFrameHeader_smp : (undefFrameHeader s).smp = s.smp := rfl
@[simp] theorem undefFrameHeader_snap : (undefFrameHeader s).snap = s.snap := rfl
@[simp] theorem undefFrameHeader_sub : (undefFrameHeader s).sub = s.sub := rfl
@[simp] theorem undefFrameHeader_inbox : (undefFrameHeader s).inbox = s.inbox := rfl
@[simp] theorem undefFrameHeader_hostData : (undefFrameHeader s).hostData = s.hostData := rfl

/-! NBLK, which only a frame header write changes. -/

@[simp] theorem nblkOf_setPos (p : Nat) : nblkOf (setPos p s) = nblkOf s := rfl
@[simp] theorem nblkOf_setCrcs (c8 : BitVec 8) (c16 : BitVec 16) : nblkOf (setCrcs c8 c16 s) = nblkOf s := rfl
@[simp] theorem nblkOf_feedByte (b : Byte) : nblkOf (feedByte b s) = nblkOf s := rfl
@[simp] theorem nblkOf_setResult (v : Word) : nblkOf (setResult v s) = nblkOf s := rfl
@[simp] theorem nblkOf_setRes (i : Nat) (v : Word) : nblkOf (setRes i v s) = nblkOf s := rfl
@[simp] theorem nblkOf_setSmp (c i : Nat) (v : Word) : nblkOf (setSmp c i v s) = nblkOf s := rfl
@[simp] theorem nblkOf_setSubframeHeader (t order wasted : Nat) : nblkOf (setSubframeHeader t order wasted s) = nblkOf s := rfl
@[simp] theorem nblkOf_setPrec (p : Nat) : nblkOf (setPrec p s) = nblkOf s := rfl
@[simp] theorem nblkOf_setShift (v : BitVec 5) : nblkOf (setShift v s) = nblkOf s := rfl
@[simp] theorem nblkOf_setQlp (j : Nat) (v : BitVec 16) : nblkOf (setQlp j v s) = nblkOf s := rfl
@[simp] theorem nblkOf_setCode (c : Code) : nblkOf (setCode c s) = nblkOf s := rfl
@[simp] theorem nblkOf_setValid (v : Bool) : nblkOf (setValid v s) = nblkOf s := rfl
@[simp] theorem nblkOf_setSticky (v : Bool) : nblkOf (setSticky v s) = nblkOf s := rfl
@[simp] theorem nblkOf_undefRes (lo count : Nat) : nblkOf (undefRes lo count s) = nblkOf s := rfl
@[simp] theorem nblkOf_undefSmp (c lo count : Nat) : nblkOf (undefSmp c lo count s) = nblkOf s := rfl
@[simp] theorem nblkOf_beginCommand : nblkOf (beginCommand s) = nblkOf s := rfl
@[simp] theorem nblkOf_endCommand (c : Code) : nblkOf (endCommand c s) = nblkOf s := rfl

end Sys2Proof.Machine
end

