-- ==== Sys2Proof/Laws/Bits.lean ====
section
/-! SUPPORT. The cursor on bits that stand in the buffer: each primitive of 41_bitcursor.md consumes exactly the field it reads,
as `moveBy` says, and gives its value. -/

namespace Sys2Proof.Machine

/-! Fields as bits. -/

@[simp] theorem length_uintBits (n v : Nat) : (uintBits n v).length = n := by
  induction n with
  | zero => rfl
  | succ n ih => simp [uintBits, ih]

@[simp] theorem length_sintBits (n : Nat) (v : Int) : (sintBits n v).length = n := length_uintBits n _

@[simp] theorem length_unaryBits (stop : Bool) (q : Nat) : (unaryBits stop q).length = q + 1 := by simp [unaryBits]

@[simp] theorem length_riceBits (stop : Bool) (k : Nat) (v : Int) :
    (riceBits stop k v).length = unfold v / 2 ^ k + 1 + k := by simp [riceBits]

/-! A code's fields hold its bits, in order. -/

@[simp] theorem fieldBits_nil : fieldBits [] = [] := rfl

@[simp] theorem fieldBits_cons (f : BitField) (fs : List BitField) : fieldBits (f :: fs) = f.bits ++ fieldBits fs := rfl

@[simp] theorem fieldBits_append (fs gs : List BitField) : fieldBits (fs ++ gs) = fieldBits fs ++ fieldBits gs := by
  simp [fieldBits]

theorem fieldBits_flatMap {α : Type} (fields : α → List BitField) (xs : List α) :
    fieldBits (xs.flatMap fields) = xs.flatMap fun x => fieldBits (fields x) := by
  simp [fieldBits, List.flatMap_assoc]

theorem fieldBits_map {α : Type} (kind : FieldKind) (bits : α → List Bool) (xs : List α) :
    fieldBits (xs.map fun x => ⟨kind, bits x⟩) = xs.flatMap bits := by
  simp [fieldBits, List.flatMap_map]

theorem fieldBits_riceFields (stop : Bool) (k : Nat) (v : Int) : fieldBits (riceFields stop k v) = riceBits stop k v := by
  simp [riceFields, riceBits]

theorem PartitionCode.fieldBits_fields (stop : Bool) (pbits : Nat) (x : PartitionCode) :
    fieldBits (x.fields stop pbits) = x.bits stop pbits := by
  cases x <;> simp [fields, bits, fieldBits_flatMap, fieldBits_riceFields, fieldBits_map]

theorem SectionCode.fieldBits_fields (stop : Bool) (x : SectionCode) : fieldBits (x.fields stop) = x.bits stop := by
  simp [fields, bits, fieldBits_flatMap, PartitionCode.fieldBits_fields]

theorem BodyCode.fieldBits_fields (stop : Bool) (ebps : Nat) (x : BodyCode) :
    fieldBits (x.fields stop ebps) = x.bits stop ebps := by
  cases x <;> simp [fields, bits, fieldBits_map, SectionCode.fieldBits_fields]

/-- A body with a residual section ends in that section's bits. -/
theorem BodyCode.beforeSection_append (stop : Bool) {ebps : Nat} {x : BodyCode} {start : List Bool}
    (h : x.beforeSection ebps = some start) : ∃ sec : SectionCode, x.bits stop ebps = start ++ sec.bits stop := by
  cases x with
  | constant v => simp [beforeSection] at h
  | verbatim xs => simp [beforeSection] at h
  | fixed warm sec => cases h; exact ⟨sec, rfl⟩
  | lpc warm prec shift cs sec => cases h; exact ⟨sec, rfl⟩

theorem SubframeCode.fieldBits_fields (stop : Bool) (bps : Nat) (x : SubframeCode) :
    fieldBits (x.fields stop bps) = x.bits stop bps := by
  by_cases h : 0 < x.wasted <;> simp [fields, bits, subframeStart, BodyCode.fieldBits_fields, h]

/-! The value of a field. -/

/-- The value of a field, most significant bit first, after the value v of the bits before it. -/
def bitsValue (v : Nat) (bs : List Bool) : Nat := bs.foldl (fun a b => 2 * a + b.toNat) v

theorem bitsValue_uintBits (n a v : Nat) (h : v < 2 ^ n) : bitsValue a (uintBits n v) = a * 2 ^ n + v := by
  induction n generalizing a v with
  | zero => simp [uintBits, bitsValue]; omega
  | succ n ih =>
    have low : uintBits n v = uintBits n (v % 2 ^ n) := by
      have : ∀ m, m ≤ n → uintBits m v = uintBits m (v % 2 ^ n) := by
        intro m hm
        induction m with
        | zero => rfl
        | succ m ihm =>
          simp only [uintBits, ihm (by omega), Nat.testBit_mod_two_pow]
          simp [show m < n by omega]
      exact this n le_rfl
    have step : bitsValue a (uintBits (n + 1) v) = bitsValue (2 * a + (v.testBit n).toNat) (uintBits n v) := rfl
    rw [step, low, ih _ _ (Nat.mod_lt _ (by positivity))]
    have top : (v.testBit n).toNat = v / 2 ^ n := by
      rw [Nat.testBit_eq_decide_div_mod_eq]
      have : v / 2 ^ n < 2 := by rw [Nat.div_lt_iff_lt_mul (by positivity)]; rw [pow_succ] at h; omega
      interval_cases v / 2 ^ n <;> rfl
    rw [top]
    have := Nat.div_add_mod v (2 ^ n)
    rw [pow_succ]; nlinarith

/-! Bits in the buffer. -/

theorem bitsAt_append (m : Memory) (p : Nat) (xs ys : List Bool) :
    bitsAt m p (xs ++ ys) = (bitsAt m p xs && bitsAt m (p + xs.length) ys) := by
  induction xs generalizing p with
  | nil => simp [bitsAt]
  | cons b xs ih => simp [bitsAt, ih, Bool.and_assoc, Nat.add_assoc, Nat.add_comm 1]

/-- A bit that stands is in a byte that has been written. -/
theorem isSome_of_bitsAt {m : Memory} {p : Nat} {bs : List Bool} (h : bitsAt m p bs = true) {j : Nat}
    (hj : j < bs.length) : (cellGet m ((p + j) / 8)).isSome = true := by
  induction bs generalizing p j with
  | nil => simp at hj
  | cons b bs ih =>
    simp only [bitsAt, Bool.and_eq_true, decide_eq_true_eq] at h
    cases j with
    | zero =>
      have := h.1
      unfold BitIs at this
      rw [Nat.add_zero]
      cases e : cellGet m (p / 8) <;> simp_all
    | succ j =>
      have := ih h.2 (j := j) (by simpa using hj)
      rwa [show p + 1 + j = p + (j + 1) by omega] at this

theorem completedBytes_self (m : Memory) (p : Nat) : completedBytes m p p = [] := by simp [completedBytes]

/-- The bytes completed on the way from p to r are those from p to q, then those from q to r. -/
theorem completedBytes_append (m : Memory) {p q r : Nat} (h1 : p ≤ q) (h2 : q ≤ r) :
    completedBytes m p r = completedBytes m p q ++ completedBytes m q r := by
  have d1 : p / 8 ≤ q / 8 := Nat.div_le_div_right h1
  have d2 : q / 8 ≤ r / 8 := Nat.div_le_div_right h2
  unfold completedBytes
  rw [show r / 8 - p / 8 = (q / 8 - p / 8) + (r / 8 - q / 8) by omega, List.range_add, List.map_append, List.map_map]
  congr 1
  apply List.map_congr_left
  intro j _
  simp only [Function.comp_apply]
  congr 2; omega

/-! `moveBy`: the fields it keeps. -/

section MoveBy

variable (n : Nat) (s : State)

@[simp] theorem moveBy_cfg : (moveBy n s).cfg = s.cfg := rfl
@[simp] theorem moveBy_len : (moveBy n s).len = s.len := rfl
@[simp] theorem moveBy_result : (moveBy n s).result = s.result := rfl
@[simp] theorem moveBy_code : (moveBy n s).code = s.code := rfl
@[simp] theorem moveBy_valid : (moveBy n s).valid = s.valid := rfl
@[simp] theorem moveBy_sticky : (moveBy n s).sticky = s.sticky := rfl
@[simp] theorem moveBy_scan : (moveBy n s).scan = s.scan := rfl
@[simp] theorem moveBy_si : (moveBy n s).si = s.si := rfl
@[simp] theorem moveBy_siValid : (moveBy n s).siValid = s.siValid := rfl
@[simp] theorem moveBy_fh : (moveBy n s).fh = s.fh := rfl
@[simp] theorem moveBy_sf : (moveBy n s).sf = s.sf := rfl
@[simp] theorem moveBy_qlp : (moveBy n s).qlp = s.qlp := rfl
@[simp] theorem moveBy_undef : (moveBy n s).undef = s.undef := rfl
@[simp] theorem moveBy_buf : (moveBy n s).buf = s.buf := rfl
@[simp] theorem moveBy_res : (moveBy n s).res = s.res := rfl
@[simp] theorem moveBy_smp : (moveBy n s).smp = s.smp := rfl
@[simp] theorem moveBy_snap : (moveBy n s).snap = s.snap := rfl
@[simp] theorem moveBy_freeCtr : (moveBy n s).freeCtr = s.freeCtr := rfl
@[simp] theorem moveBy_sub : (moveBy n s).sub = s.sub := rfl
@[simp] theorem moveBy_inbox : (moveBy n s).inbox = s.inbox := rfl
@[simp] theorem moveBy_hostData : (moveBy n s).hostData = s.hostData := rfl

end MoveBy

theorem moveBy_pos {n : Nat} {s : State} (h : s.pos.toNat + n < 2 ^ 65) : (moveBy n s).pos.toNat = s.pos.toNat + n := by
  simp only [moveBy, BitVec.toNat_ofNat]; exact Nat.mod_eq_of_lt h

@[simp] theorem moveBy_zero (s : State) : moveBy 0 s = s := by simp [moveBy, completedBytes_self]

/-- Consuming a bits and then b more is consuming a + b. -/
theorem moveBy_moveBy {a b : Nat} {s : State} (h : s.pos.toNat + a < 2 ^ 65) :
    moveBy b (moveBy a s) = moveBy (a + b) s := by
  have hp := moveBy_pos h
  have happ := completedBytes_append s.buf (p := s.pos.toNat) (q := s.pos.toNat + a) (r := s.pos.toNat + (a + b))
    (by omega) (by omega)
  rw [show moveBy b (moveBy a s) = { moveBy a s with
      pos := BitVec.ofNat 65 ((moveBy a s).pos.toNat + b)
      crc8 := (completedBytes (moveBy a s).buf (moveBy a s).pos.toNat ((moveBy a s).pos.toNat + b)).foldl crc8Byte
        (moveBy a s).crc8
      crc16 := (completedBytes (moveBy a s).buf (moveBy a s).pos.toNat ((moveBy a s).pos.toNat + b)).foldl crc16Byte
        (moveBy a s).crc16 } from rfl]
  rw [hp]
  simp only [moveBy, happ, List.foldl_append, Nat.add_assoc]

/-! Bits that stand at the cursor. -/

/-- The cursor does not run past the end of the buffer over bits that stand there. -/
theorem Stands.lt {s : State} {bs : List Bool} (h : Stands s bs) (hb : Bounded s) :
    s.pos.toNat + bs.length < 2 ^ 65 := by
  have := h.1; have : s.len.toNat ≤ 2 ^ 61 := hb; omega

/-- Bits that stand one after another: the first ones stand here, and the others where the cursor is after them. -/
theorem stands_append {s : State} {xs ys : List Bool} (hb : Bounded s) :
    Stands s (xs ++ ys) ↔ Stands s xs ∧ Stands (moveBy xs.length s) ys := by
  have lb : s.len.toNat ≤ 2 ^ 61 := hb
  unfold Stands
  rw [bitsAt_append, List.length_append, Bool.and_eq_true, moveBy_len, moveBy_buf]
  by_cases h : s.pos.toNat + xs.length ≤ 8 * s.len.toNat
  · rw [moveBy_pos (by omega)]
    constructor
    · rintro ⟨h1, h2, h3⟩; exact ⟨⟨h, h2⟩, by omega, h3⟩
    · rintro ⟨⟨_, h2⟩, h1, h3⟩; exact ⟨by omega, h2, h3⟩
  · constructor
    · rintro ⟨h1, _⟩; omega
    · rintro ⟨⟨h1, _⟩, _⟩; exact absurd h1 h

/-! The primitives. -/

theorem bitAt_of_bitIs {s : State} {p : Nat} {b : Bool} (h : BitIs s.buf p b) : bitAt p s = .ok b s := by
  unfold BitIs at h
  cases e : cellGet s.buf (p / 8) with
  | none => simp [e] at h
  | some x => simp_all [bitAt, Cmd.bind, memRead, Cmd.pure]

/-- `Bit(p) ‖ Bit(p+1) ‖ ...` (20_memory.md R73): peeking reads the field and moves nothing. -/
theorem peekBits_of_bitsAt {s : State} {bs : List Bool} {p : Nat} (h : bitsAt s.buf p bs = true) (v : Nat) :
    peekBits bs.length p v s = .ok (bitsValue v bs) s := by
  induction bs generalizing p v with
  | nil => rfl
  | cons b bs ih =>
    simp only [bitsAt, Bool.and_eq_true, decide_eq_true_eq] at h
    rw [List.length_cons, peekBits, bind_of_ok (bitAt_of_bitIs h.1), ih h.2]; rfl

theorem advanceOne_of_isSome {s : State} (h : (cellGet s.buf (s.pos.toNat / 8)).isSome = true)
    (hp : s.pos.toNat + 1 < 2 ^ 65) : advanceOne s = .ok () (moveBy 1 s) := by
  obtain ⟨b, hb⟩ := Option.isSome_iff_exists.mp h
  unfold advanceOne
  by_cases e : (s.pos.toNat + 1) % 8 = 0
  · have d : (s.pos.toNat + 1) / 8 - 1 = s.pos.toNat / 8 := by omega
    have d' : (s.pos.toNat + 1) / 8 - s.pos.toNat / 8 = 1 := by omega
    simp [e, d, Cmd.bind, memRead, hb, feedByte, moveBy, setPos, setCrcs, completedBytes, d', Cmd.update]
  · have d' : (s.pos.toNat + 1) / 8 - s.pos.toNat / 8 = 0 := by omega
    simp [e, setPos, moveBy, completedBytes, d']

/-- `Advance(n)` (R162) over bytes that have been written is `moveBy n`. -/
theorem advance_of_isSome {n : Nat} {s : State}
    (h : ∀ j, j < n → (cellGet s.buf ((s.pos.toNat + j) / 8)).isSome = true) (hp : s.pos.toNat + n < 2 ^ 65) :
    advance n s = .ok () (moveBy n s) := by
  induction n generalizing s with
  | zero => simp [advance]
  | succ n ih =>
    have h1 : s.pos.toNat + 1 < 2 ^ 65 := by omega
    rw [advance, andThen_of_ok (advanceOne_of_isSome (h 0 (by omega)) h1), ih, moveBy_moveBy h1, Nat.add_comm 1 n]
    · intro j hj
      rw [moveBy_pos h1, moveBy_buf]
      have := h (j + 1) (by omega)
      rwa [show s.pos.toNat + 1 + j = s.pos.toNat + (j + 1) by omega]
    · rw [moveBy_pos h1]; omega

theorem advance_of_stands {s : State} {bs : List Bool} (hs : Stands s bs) (hb : Bounded s) :
    advance bs.length s = .ok () (moveBy bs.length s) :=
  advance_of_isSome (fun _ hj => isSome_of_bitsAt hs.2 hj) (hs.lt hb)

/-- `ReadBits(n)` (R150) consumes the field and gives its value. -/
theorem readBits_of_stands {n v : Nat} {s : State} (hv : v < 2 ^ n) (hb : Bounded s) (hs : Stands s (uintBits n v)) :
    readBits n s = .ok v (moveBy n s) := by
  have hpeek := peekBits_of_bitsAt hs.2 0
  have hadv := advance_of_stands hs hb
  simp only [length_uintBits, bitsValue_uintBits _ _ _ hv, Nat.zero_mul, Nat.zero_add] at hpeek hadv
  have h1 := hs.1
  rw [length_uintBits] at h1
  rw [readBits, if_neg (by omega), bind_of_ok hpeek, andThen_of_ok hadv]; rfl

/-- `ReadBits(n)` past the end of the buffer is OutOfData and consumes nothing (R150). -/
theorem readBits_of_short {n : Nat} {s : State} (h : 8 * s.len.toNat < s.pos.toNat + n) :
    readBits n s = .raised .outOfData s := by
  rw [readBits, if_pos (by omega)]

theorem sext_of_inRange {n : Nat} {v : Int} (hn : 1 ≤ n) (hv : InRange v n) :
    (v % 2 ^ n).toNat < 2 ^ n ∧ sext n (v % 2 ^ n).toNat = v := by
  obtain ⟨m, rfl⟩ : ∃ m, n = m + 1 := ⟨n - 1, by omega⟩
  simp only [InRange, Nat.add_sub_cancel] at hv
  have hp : (0 : Int) < 2 ^ m := by positivity
  have hpow : (2 : Int) ^ (m + 1) = 2 * 2 ^ m := by ring
  have hlt : ((v % 2 ^ (m + 1)).toNat : Int) = v % 2 ^ (m + 1) :=
    Int.toNat_of_nonneg (Int.emod_nonneg _ (by positivity))
  have hmod : v % 2 ^ (m + 1) = if v < 0 then v + 2 ^ (m + 1) else v := by
    split
    · rw [← Int.add_emod_right]; exact Int.emod_eq_of_lt (by omega) (by omega)
    · exact Int.emod_eq_of_lt (by omega) (by omega)
  constructor
  · zify; rw [hlt]; exact Int.emod_lt_of_pos _ (by positivity)
  · have key : (2 ^ m ≤ (v % 2 ^ (m + 1)).toNat) ↔ v < 0 := by
      zify; rw [hlt, hmod]; split <;> omega
    unfold sext
    rw [if_neg (by omega), Nat.add_sub_cancel, hlt]
    by_cases h : v < 0
    · rw [if_pos (key.mpr h), hmod, if_pos h]; omega
    · rw [if_neg (fun e => h (key.mp e)), hmod, if_neg h]

/-- `ReadSigned(n)` (R151) consumes the two's-complement field and gives its value. -/
theorem readSigned_of_stands {n : Nat} {v : Int} {s : State} (hn : 1 ≤ n) (hv : InRange v n) (hb : Bounded s)
    (hs : Stands s (sintBits n v)) : readSigned n s = .ok v (moveBy n s) := by
  obtain ⟨h1, h2⟩ := sext_of_inRange hn hv
  rw [readSigned, if_neg (by omega), bind_of_ok (readBits_of_stands h1 hb hs), h2]; rfl

/-- `ReadSigned(0)` is 0 and consumes nothing (R151). -/
@[simp] theorem readSigned_zero : readSigned 0 = Cmd.pure 0 := rfl

/-- A field of width 0 or one whose value fits: `ReadSigned` gives the value. -/
theorem readSigned_field {n : Nat} {v : Int} {s : State} (hv : if n = 0 then v = 0 else InRange v n) (hb : Bounded s)
    (hs : Stands s (sintBits n v)) : readSigned n s = .ok v (moveBy n s) := by
  by_cases hn : n = 0
  · subst hn; simp_all
  · exact readSigned_of_stands (by omega) (by simpa [hn] using hv) hb hs

theorem readSigned_of_short {n : Nat} {s : State} (hn : 1 ≤ n) (h : 8 * s.len.toNat < s.pos.toNat + n) :
    readSigned n s = .raised .outOfData s := by
  rw [readSigned, if_neg (by omega), bind_of_raised (readBits_of_short h)]

theorem scanUnary_succ (n q : Nat) (s : State) :
    scanUnary (n + 1) q s =
      ((bitAt (s.pos.toNat + q)).bind fun b => if b = s.cfg.unaryStop then Cmd.pure q else scanUnary n (q + 1)) s :=
  rfl

theorem scanUnary_of_bitsAt {s : State} {q : Nat} : ∀ {left seen : Nat}, q < left →
    bitsAt s.buf (s.pos.toNat + seen) (unaryBits s.cfg.unaryStop q) = true →
    scanUnary left seen s = .ok (seen + q) s := by
  induction q with
  | zero =>
    intro left seen hl h
    obtain ⟨l, rfl⟩ : ∃ l, left = l + 1 := ⟨left - 1, by omega⟩
    simp only [unaryBits, List.replicate_zero, List.nil_append, bitsAt, Bool.and_true, decide_eq_true_eq] at h
    rw [scanUnary_succ, bind_of_ok (bitAt_of_bitIs h)]; simp
  | succ q ih =>
    intro left seen hl h
    obtain ⟨l, rfl⟩ : ∃ l, left = l + 1 := ⟨left - 1, by omega⟩
    simp only [unaryBits, List.replicate_succ, List.cons_append, bitsAt, Bool.and_eq_true, decide_eq_true_eq] at h
    rw [scanUnary_succ, bind_of_ok (bitAt_of_bitIs h.1), if_neg (by simp), ih (by omega) h.2]
    congr 1; omega

/-- `ReadUnary()` (R152) consumes the code and gives the count before its stop bit. -/
theorem readUnary_of_stands {q : Nat} {s : State} (hb : Bounded s) (hs : Stands s (unaryBits s.cfg.unaryStop q)) :
    readUnary s = .ok q (moveBy (q + 1) s) := by
  have h1 := hs.1
  rw [length_unaryBits] at h1
  have hscan := scanUnary_of_bitsAt (s := s) (seen := 0) (left := bitsLeft s) (by unfold bitsLeft; omega) hs.2
  have hadv := advance_of_stands hs hb
  rw [length_unaryBits] at hadv
  rw [readUnary, bind_of_ok hscan, Nat.zero_add, andThen_of_ok hadv]; rfl

theorem scanUnary_of_none {s : State} : ∀ {left seen : Nat},
    bitsAt s.buf (s.pos.toNat + seen) (List.replicate left (!s.cfg.unaryStop)) = true →
    scanUnary left seen s = .raised .malformedStream s
  | 0, _, _ => rfl
  | n + 1, seen, h => by
    simp only [List.replicate_succ, bitsAt, Bool.and_eq_true, decide_eq_true_eq] at h
    rw [scanUnary_succ, bind_of_ok (bitAt_of_bitIs h.1), if_neg (by simp)]
    exact scanUnary_of_none h.2

/-- `ReadUnary()` with no stop bit left is MalformedStream and consumes nothing (R152). -/
theorem readUnary_of_none {s : State}
    (h : bitsAt s.buf s.pos.toNat (List.replicate (8 * s.len.toNat - s.pos.toNat) (!s.cfg.unaryStop)) = true) :
    readUnary s = .raised .malformedStream s := by
  rw [readUnary, bind_of_raised (scanUnary_of_none h)]

theorem zigzag_unfold (v : Int) : zigzag (unfold v) = v := by
  unfold zigzag unfold
  split_ifs <;> omega

theorem unfold_lt {v : Int} (h : FitsEntry v) : unfold v < 2 ^ 64 := by
  unfold FitsEntry InRange at h
  norm_num at h
  unfold unfold
  split_ifs <;> omega

/-- `ReadRice(k)` (R153) consumes the code and gives its value, for every 64-bit value. -/
theorem readRice_of_stands {k : Nat} {v : Int} {s : State} (hk : k ≤ 64) (hv : FitsEntry v) (hb : Bounded s)
    (hs : Stands s (riceBits s.cfg.unaryStop k v)) :
    readRice k s = .ok v (moveBy (riceBits s.cfg.unaryStop k v).length s) := by
  unfold riceBits at hs
  obtain ⟨hu, hr⟩ := (stands_append hb).mp hs
  have hlt := hu.lt hb
  rw [length_unaryBits] at hr hlt
  have hq : unfold v / 2 ^ k < 2 ^ (64 - k) := by
    rw [Nat.div_lt_iff_lt_mul (by positivity), ← pow_add, show 64 - k + k = 64 by omega]
    exact unfold_lt hv
  have hrem : unfold v % 2 ^ k < 2 ^ k := Nat.mod_lt _ (by positivity)
  have hbits := readBits_of_stands hrem (by simpa [Bounded] using hb) hr
  rw [readRice, bind_of_ok (readUnary_of_stands hb hu), require_of hq, pure_andThen, bind_of_ok hbits,
    moveBy_moveBy hlt, length_riceBits]
  simp only [Cmd.pure, Nat.mul_comm _ (2 ^ k), Nat.div_add_mod, zigzag_unfold]

/-- `ByteAlign()` (R154) on a byte boundary does nothing. -/
theorem byteAlign_of_aligned {s : State} (h : s.pos.toNat % 8 = 0) : byteAlign s = .ok () s := by
  simp [byteAlign, h, advance]

/-- `ByteAlign()` (R154) consumes the rest of a byte that has been written. -/
theorem byteAlign_of_isSome {s : State} (h : (cellGet s.buf (s.pos.toNat / 8)).isSome = true)
    (hp : s.pos.toNat + 8 < 2 ^ 65) : byteAlign s = .ok () (moveBy ((8 - s.pos.toNat % 8) % 8) s) :=
  advance_of_isSome (fun j hj => by rwa [show (s.pos.toNat + j) / 8 = s.pos.toNat / 8 by omega]) (by omega)

end Sys2Proof.Machine
end

