-- ==== Sys2Proof/Laws/Cells.lean ====
section
/-! SUPPORT. Addressed cells: a read after a write, after an erasure, and the canonical form. -/

namespace Sys2Proof.Machine

variable {α : Type}

/-- A read after a write gives the value written, and leaves every other cell alone. -/
@[simp] theorem cellGet_cellSet (m : List (Nat × α)) (a : Nat) (v : α) (x : Nat) :
    cellGet (cellSet m a v) x = if x = a then some v else cellGet m x := by
  induction m with
  | nil => simp [cellSet, cellGet]
  | cons c rest ih =>
    simp only [cellSet]
    split_ifs <;> simp_all [cellGet]

/-- An erased cell holds no value; every other one is kept. -/
@[simp] theorem cellGet_cellErase (m : List (Nat × α)) (lo count x : Nat) :
    cellGet (cellErase m lo count) x = if lo ≤ x ∧ x < lo + count then none else cellGet m x := by
  induction m with
  | nil => simp [cellErase, cellGet]
  | cons c rest ih =>
    simp only [cellErase, List.filter_cons] at ih ⊢
    split_ifs with h1 h2 h2 <;> simp_all [cellGet] <;> intro h <;> omega

/-- The canonical form says that addresses rise strictly. -/
theorem cellsWf_iff_pairwise (m : List (Nat × α)) : cellsWf m = true ↔ m.Pairwise (fun c d => c.1 < d.1) := by
  induction m with
  | nil => simp [cellsWf]
  | cons c rest ih =>
    cases rest with
    | nil => simp [cellsWf]
    | cons d rest =>
      simp only [cellsWf, Bool.and_eq_true, decide_eq_true_eq, ih, List.pairwise_cons, List.mem_cons]
      constructor
      · rintro ⟨h, hd, hr⟩
        exact ⟨by rintro e (rfl | he); exacts [h, h.trans (hd e he)], hd, hr⟩
      · rintro ⟨h, hd, hr⟩
        exact ⟨h d (.inl rfl), hd, hr⟩

/-- What a write can list: the cell written and cells that were there. -/
theorem mem_cellSet {m : List (Nat × α)} {a : Nat} {v : α} {c : Nat × α} (h : c ∈ cellSet m a v) :
    c = (a, v) ∨ c ∈ m := by
  induction m with
  | nil => simpa [cellSet] using h
  | cons d rest ih =>
    simp only [cellSet] at h
    split_ifs at h <;> simp only [List.mem_cons] at h ⊢ <;> tauto

/-- What an erasure lists was there. -/
theorem mem_cellErase {m : List (Nat × α)} {lo count : Nat} {c : Nat × α} (h : c ∈ cellErase m lo count) : c ∈ m :=
  (List.mem_filter.mp h).1

/-- A write keeps the canonical form. -/
theorem cellsWf_cellSet {m : List (Nat × α)} (h : cellsWf m = true) (a : Nat) (v : α) :
    cellsWf (cellSet m a v) = true := by
  rw [cellsWf_iff_pairwise] at *
  induction m with
  | nil => simp [cellSet]
  | cons c rest ih =>
    rw [List.pairwise_cons] at h
    simp only [cellSet]
    split_ifs with h1 h2
    · refine List.pairwise_cons.mpr ⟨?_, List.pairwise_cons.mpr h⟩
      rintro e he
      rcases List.mem_cons.mp he with rfl | he
      exacts [h1, h1.trans (h.1 e he)]
    · exact List.pairwise_cons.mpr ⟨fun e he => by simpa [h2] using h.1 e he, h.2⟩
    · refine List.pairwise_cons.mpr ⟨fun e he => ?_, ih h.2⟩
      rcases mem_cellSet he with rfl | he
      exacts [by simp; omega, h.1 e he]

/-- An erasure keeps the canonical form. -/
theorem cellsWf_cellErase {m : List (Nat × α)} (h : cellsWf m = true) (lo count : Nat) :
    cellsWf (cellErase m lo count) = true := by
  rw [cellsWf_iff_pairwise] at *
  exact h.filter _

/-- In canonical form a cell is listed exactly when it is what its address holds. -/
theorem mem_iff_cellGet {m : List (Nat × α)} (h : cellsWf m = true) (c : Nat × α) :
    c ∈ m ↔ cellGet m c.1 = some c.2 := by
  rw [cellsWf_iff_pairwise] at h
  induction m with
  | nil => simp [cellGet]
  | cons d rest ih =>
    rw [List.pairwise_cons] at h
    simp only [List.mem_cons, cellGet]
    split_ifs with e
    · constructor
      · rintro (rfl | hc)
        · rfl
        · have := h.1 c hc; omega
      · intro hv
        exact .inl (Prod.ext e (by simpa using hv.symm))
    · rw [← ih h.2]
      constructor
      · rintro (rfl | hc)
        exacts [absurd rfl e, hc]
      · exact .inr

/-- Equal memories are equal data: canonical lists that read alike are the same list. -/
theorem cells_ext {m n : List (Nat × α)} (hm : cellsWf m = true) (hn : cellsWf n = true)
    (h : ∀ a, cellGet m a = cellGet n a) : m = n := by
  have mem : ∀ c, c ∈ m ↔ c ∈ n := fun c => by rw [mem_iff_cellGet hm, mem_iff_cellGet hn, h]
  rw [cellsWf_iff_pairwise] at hm hn
  have nodup : ∀ {l : List (Nat × α)}, l.Pairwise (fun c d => c.1 < d.1) → l.Nodup := fun hl =>
    hl.imp (fun hab hEq => by simp [hEq] at hab)
  exact ((List.perm_ext_iff_of_nodup (nodup hm) (nodup hn)).mpr mem).eq_of_pairwise
    (fun a b _ _ hab hba => by omega) hm hn

/-- Memory after reset is in canonical form. -/
theorem reset_memory_wf :
    Memory.wf State.reset.buf = true ∧ Entries.wf State.reset.res = true ∧ Entries.wf State.reset.smp = true := by
  decide

end Sys2Proof.Machine
end

