-- ==== Sys2Proof/Laws/Blocks.lean ====
section
/-! SUPPORT. The loops over a block: what reading a sequence of fields, a residual section and a reconstruction do, when their
bits stand in the buffer and their values fit. -/

namespace Sys2Proof.Machine

/-! Values in entries. -/

/-- A value that fits an entry is read back from it. -/
theorem toInt_wordOfInt {v : Int} (h : FitsEntry v) : (wordOfInt v).toInt = v := by
  unfold FitsEntry InRange at h
  norm_num at h
  rw [wordOfInt, BitVec.toInt_ofInt, Int.bmod_def]
  norm_num
  split_ifs <;> omega

theorem inRange_mono {v : Int} {w w' : Nat} (h : InRange v w) (hw : w ≤ w') : InRange v w' := by
  have : (2 : Int) ^ (w - 1) ≤ 2 ^ (w' - 1) := pow_le_pow_right₀ (by norm_num) (by omega)
  unfold InRange at *; omega

/-! Several entries. -/

/-- Writing the values vs from address a on. -/
def cellsSet {α : Type} (m : List (Nat × α)) (a : Nat) : List α → List (Nat × α)
  | [] => m
  | v :: vs => cellsSet (cellSet m a v) (a + 1) vs

theorem cellGet_cellsSet {α : Type} (m : List (Nat × α)) (a : Nat) (vs : List α) (x : Nat) :
    cellGet (cellsSet m a vs) x = if h : a ≤ x ∧ x < a + vs.length then some (vs[x - a]'(by omega)) else cellGet m x := by
  induction vs generalizing m a with
  | nil => rw [dif_neg (by simp)]; rfl
  | cons v vs ih =>
    rw [cellsSet, ih, cellGet_cellSet]
    by_cases h1 : x = a
    · subst h1; rw [dif_neg (by omega), if_pos rfl, dif_pos (by simp)]; simp
    · by_cases h2 : a + 1 ≤ x ∧ x < a + 1 + vs.length
      · rw [dif_pos h2, dif_pos (by simp; omega)]
        congr 1
        rw [List.getElem_cons, dif_neg (by omega)]; congr 1
      · rw [dif_neg h2, if_neg h1, dif_neg (by simp; omega)]

theorem holdsAt_iff (m : Entries) (a : Nat) (vs : List Int) :
    holdsAt m a vs = true ↔ ∀ i (h : i < vs.length), cellGet m (a + i) = some (wordOfInt (vs[i]'h)) := by
  induction vs generalizing a with
  | nil => simp [holdsAt]
  | cons v vs ih =>
    simp only [holdsAt, Bool.and_eq_true, decide_eq_true_eq, ih, List.length_cons]
    constructor
    · rintro ⟨h0, h⟩ i hi
      cases i with
      | zero => simpa using h0
      | succ i => have := h i (by omega); simpa [Nat.add_assoc, Nat.add_comm 1] using this
    · intro h
      refine ⟨by simpa using h 0 (by omega), fun i hi => ?_⟩
      have := h (i + 1) (by omega)
      simpa [Nat.add_assoc, Nat.add_comm 1] using this

theorem holdsAt_append (m : Entries) (a : Nat) (xs ys : List Int) :
    holdsAt m a (xs ++ ys) = (holdsAt m a xs && holdsAt m (a + xs.length) ys) := by
  induction xs generalizing a with
  | nil => simp [holdsAt]
  | cons x xs ih => simp [holdsAt, ih, Bool.and_assoc, Nat.add_assoc, Nat.add_comm 1]

/-- What was written is held. -/
theorem holdsAt_cellsSet (m : Entries) (a : Nat) (vs : List Int) :
    holdsAt (cellsSet m a (vs.map wordOfInt)) a vs = true := by
  rw [holdsAt_iff]
  intro i hi
  rw [cellGet_cellsSet, dif_pos (by simp; omega)]
  simp

/-- Nothing else was written. -/
theorem sameOutside_cellsSet (m : Entries) (a : Nat) (vs : List Word) : SameOutside m (cellsSet m a vs) a vs.length := by
  intro x hx
  rw [cellGet_cellsSet, dif_neg (by omega)]

theorem holdsAt_congr {m n : Entries} {a : Nat} {vs : List Int}
    (h : ∀ x, a ≤ x → x < a + vs.length → cellGet n x = cellGet m x) : holdsAt n a vs = holdsAt m a vs := by
  induction vs generalizing a with
  | nil => rfl
  | cons v vs ih =>
    rw [holdsAt, holdsAt, h a le_rfl (by simp), ih]
    intro x h1 h2
    exact h x (by omega) (by simp; omega)

/-! A sequence of fields. -/

/-- A loop that reads one field after another into RES. -/
theorem readInto_res {reader : Cmd Int} {field : Int → List Bool} {vs : List Int} {idx : Nat} {s : State}
    (hread : ∀ v ∈ vs, ∀ t : State, t.cfg = s.cfg → Bounded t → Stands t (field v) →
      reader t = .ok v (moveBy (field v).length t))
    (hb : Bounded s) (hs : Stands s (vs.flatMap field)) :
    Cmd.forRange (fun i => reader.bind fun v => writeRes i v) vs.length idx s =
      .ok () { moveBy (vs.flatMap field).length s with res := cellsSet s.res idx (vs.map wordOfInt) } := by
  induction vs generalizing idx s with
  | nil => simp [cellsSet, Cmd.pure]
  | cons v vs ih =>
    rw [List.flatMap_cons] at hs ⊢
    obtain ⟨h1, h2⟩ := (stands_append hb).mp hs
    have hstep : (reader.bind fun v => writeRes idx v) s = .ok () (setRes idx (wordOfInt v) (moveBy (field v).length s)) := by
      rw [bind_of_ok (hread v (by simp) s rfl hb h1)]; rfl
    rw [List.length_cons, forRange_succ, andThen_of_ok hstep,
      ih (fun u hu t ht => hread u (by simp [hu]) t (by simpa using ht)) (by simpa [Bounded] using hb)
        (by simpa [Stands] using h2)]
    rw [List.length_append, ← moveBy_moveBy (h1.lt hb)]
    simp [cellsSet, setRes, moveBy]

/-- A loop that reads one field after another into SMP. -/
theorem readInto_smp {reader : Cmd Int} {field : Int → List Bool} {vs : List Int} {c idx : Nat} {s : State}
    (hread : ∀ v ∈ vs, ∀ t : State, t.cfg = s.cfg → Bounded t → Stands t (field v) →
      reader t = .ok v (moveBy (field v).length t))
    (hb : Bounded s) (hs : Stands s (vs.flatMap field)) :
    Cmd.forRange (fun i => reader.bind fun v => writeSmp c i v) vs.length idx s =
      .ok () { moveBy (vs.flatMap field).length s with
        smp := cellsSet s.smp (smpAddress c idx) (vs.map wordOfInt) } := by
  induction vs generalizing idx s with
  | nil => simp [cellsSet, Cmd.pure]
  | cons v vs ih =>
    rw [List.flatMap_cons] at hs ⊢
    obtain ⟨h1, h2⟩ := (stands_append hb).mp hs
    have hstep : (reader.bind fun v => writeSmp c idx v) s =
        .ok () (setSmp c idx (wordOfInt v) (moveBy (field v).length s)) := by
      rw [bind_of_ok (hread v (by simp) s rfl hb h1)]; rfl
    rw [List.length_cons, forRange_succ, andThen_of_ok hstep,
      ih (fun u hu t ht => hread u (by simp [hu]) t (by simpa using ht)) (by simpa [Bounded] using hb)
        (by simpa [Stands] using h2)]
    rw [List.length_append, ← moveBy_moveBy (h1.lt hb)]
    simp [cellsSet, setSmp, moveBy, smpAddress, Nat.add_assoc]

/-- The warm-up and verbatim samples (R226, R227, R230). -/
theorem readSamples_of_stands {vs : List Int} {c ebps : Nat} {s : State} (he : 1 ≤ ebps)
    (hv : ∀ v ∈ vs, InRange v ebps) (hb : Bounded s) (hs : Stands s (vs.flatMap (sintBits ebps))) :
    readSamples c ebps vs.length s =
      .ok () { moveBy (vs.flatMap (sintBits ebps)).length s with
        smp := cellsSet s.smp (smpAddress c 0) (vs.map wordOfInt) } :=
  readInto_smp (fun v hm t _ hb' hs' => by
    rw [length_sintBits]; exact readSigned_of_stands he (hv v hm) hb' hs') hb hs

/-- Writing a list in two parts. -/
theorem cellsSet_append {α : Type} (m : List (Nat × α)) (a : Nat) (xs ys : List α) :
    cellsSet m a (xs ++ ys) = cellsSet (cellsSet m a xs) (a + xs.length) ys := by
  induction xs generalizing m a with
  | nil => rfl
  | cons x xs ih => simp [cellsSet, ih, Nat.add_assoc, Nat.add_comm 1]

/-! The block size. -/

/-- A register that holds a value is read without a model fault. -/
theorem useRegister_of_defined {n : Nat} {s : State} (h : s.undef.getLsbD n = false) : useRegister n s = .ok () s := by
  rw [useRegister, h]

/-- A register that nothing has written since reset is read too, a model fault recorded (log 4). -/
theorem useRegister_of_unwritten {n : Nat} {s : State} (h : s.undef.getLsbD n = true) (h' : s.spoiled.getLsbD n = false) :
    useRegister n s = .ok () { s with undefRead := true } := by
  rw [useRegister, h, h']

/-- A register that a failed command left UNDEF is not: the model fault of R303. -/
theorem useRegister_of_spoiled {n : Nat} {s : State} (h : s.undef.getLsbD n = true) (h' : s.spoiled.getLsbD n = true) :
    useRegister n s = .faulted .undefRegister := by
  rw [useRegister, h, h']

/-- NBLK in range is read without a model fault (R42). -/
theorem checkedNblk_of_ready {s : State} (h : NblkReady s) : checkedNblk s = .ok (nblkOf s) s := by
  rw [checkedNblk, andThen_of_ok (useRegister_of_defined h.1), read_bind, require_of h.2]; rfl

/-- NBLK out of range is IllegalCommand (R42). -/
theorem checkedNblk_of_not {s : State} (h1 : s.undef.getLsbD 0x21 = false) (h : ¬ (1 ≤ nblkOf s ∧ nblkOf s ≤ 65535)) :
    checkedNblk s = .raised .illegalCommand s := by
  rw [checkedNblk, andThen_of_ok (useRegister_of_defined h1), read_bind, require_of_not h]; rfl

/-- NBLK that a failed FRAME left UNDEF is a model fault (R18, R42, R303). -/
theorem checkedNblk_of_spoiled {s : State} (h : s.undef.getLsbD 0x21 = true) (h' : s.spoiled.getLsbD 0x21 = true) :
    checkedNblk s = .faulted .undefRegister := by
  rw [checkedNblk, andThen_of_faulted (useRegister_of_spoiled h h')]

/-! The residual section. -/

/-- One partition (R203). -/
theorem readPartition_of_stands {pbits : Nat} {x : PartitionCode} {idx : Nat} {s : State} (hp : pbits ≤ 5)
    (hl : x.legal pbits = true) (hb : Bounded s) (hs : Stands s (x.bits s.cfg.unaryStop pbits)) :
    readPartition pbits (2 ^ pbits - 1) x.residuals.length idx s =
      .ok () { moveBy (x.bits s.cfg.unaryStop pbits).length s with
        res := cellsSet s.res idx (x.residuals.map wordOfInt) } := by
  have hpos : 0 < 2 ^ pbits := by positivity
  have h32 : 2 ^ pbits ≤ 2 ^ 5 := Nat.pow_le_pow_right (by norm_num) hp
  cases x with
  | rice k rs =>
    simp only [PartitionCode.legal, Bool.and_eq_true, decide_eq_true_eq, List.all_eq_true] at hl
    simp only [PartitionCode.bits, PartitionCode.residuals] at hs ⊢
    obtain ⟨h1, h2⟩ := (stands_append hb).mp hs
    have hlt := h1.lt hb
    rw [length_uintBits] at h2 hlt
    rw [readPartition, bind_of_ok (readBits_of_stands (by omega) hb h1), if_neg (by omega),
      readInto_res (field := riceBits s.cfg.unaryStop k) ?_ (by simpa [Bounded] using hb) h2]
    · rw [List.length_append, length_uintBits, ← moveBy_moveBy hlt]; rfl
    · intro v hv t ht hb' hs'
      rw [moveBy_cfg] at ht
      rw [← ht] at hs' ⊢
      exact readRice_of_stands (by omega) (hl.2 v hv) hb' hs'
  | raw w rs =>
    simp only [PartitionCode.legal, Bool.and_eq_true, decide_eq_true_eq, List.all_eq_true] at hl
    simp only [PartitionCode.bits, PartitionCode.residuals] at hs ⊢
    obtain ⟨h12, h3⟩ := (stands_append hb).mp hs
    obtain ⟨h1, h2⟩ := (stands_append hb).mp h12
    have hlt := h1.lt hb
    have hlt' := h12.lt hb
    rw [List.length_append] at h3
    rw [length_uintBits] at h2 h3 hlt
    rw [length_uintBits] at h3
    rw [List.length_append, length_uintBits, length_uintBits] at hlt'
    rw [readPartition, bind_of_ok (readBits_of_stands (by omega) hb h1), if_pos rfl,
      bind_of_ok (readBits_of_stands (by omega) (by simpa [Bounded] using hb) h2), moveBy_moveBy hlt,
      readInto_res (field := sintBits w) ?_ (by simpa [Bounded] using hb) h3]
    · rw [List.length_append, List.length_append, length_uintBits, length_uintBits, ← moveBy_moveBy hlt']; rfl
    · intro v hv t _ hb' hs'
      have := hl.2 v hv
      rw [length_sintBits]
      exact readSigned_field (by by_cases h0 : w = 0 <;> simpa only [h0, if_true, if_false, decide_eq_true_eq] using this) hb' hs'

/-- The partitions from partition p on (R204). -/
theorem readPartitions_of_stands {pbits psize order : Nat} (hp : pbits ≤ 5) :
    ∀ {parts : List PartitionCode} {p idx : Nat} {s : State},
      (∀ x ∈ parts, x.legal pbits = true) →
      (∀ j (h : j < parts.length), (parts[j]'h).residuals.length = psize - (if p + j = 0 then order else 0)) →
      Bounded s → Stands s (parts.flatMap (PartitionCode.bits s.cfg.unaryStop pbits)) →
      readPartitions pbits (2 ^ pbits - 1) psize order parts.length p idx s =
        .ok () { moveBy (parts.flatMap (PartitionCode.bits s.cfg.unaryStop pbits)).length s with
          res := cellsSet s.res idx ((parts.flatMap PartitionCode.residuals).map wordOfInt) }
  | [], _, _, _, _, _, _, _ => by simp [readPartitions, cellsSet, Cmd.pure]
  | x :: parts, p, idx, s, hl, hc, hb, hs => by
    rw [List.flatMap_cons] at hs
    obtain ⟨h1, h2⟩ := (stands_append hb).mp hs
    have hcount : psize - (if p = 0 then order else 0) = x.residuals.length := (hc 0 (by simp)).symm
    have ih := readPartitions_of_stands (psize := psize) (order := order) hp (parts := parts) (p := p + 1)
      (idx := idx + x.residuals.length)
      (s := { moveBy (x.bits s.cfg.unaryStop pbits).length s with
        res := cellsSet s.res idx (x.residuals.map wordOfInt) })
      (fun y hy => hl y (by simp [hy]))
      (fun j hj => by have := hc (j + 1) (by simpa using hj); simpa [Nat.add_assoc, Nat.add_comm 1] using this)
      (by simpa [Bounded] using hb) (by simpa [Stands] using h2)
    rw [List.length_cons, readPartitions]
    simp only [hcount]
    rw [andThen_of_ok (readPartition_of_stands hp (hl x (by simp)) hb h1), ih]
    rw [List.flatMap_cons, List.flatMap_cons, List.length_append, ← moveBy_moveBy (h1.lt hb), List.map_append,
      cellsSet_append, List.length_map]
    rfl

/-- A residual section (R200 to R204): the cursor is past it and RES holds its residuals. -/
theorem residualSection_of_stands {order : Nat} {x : SectionCode} {s : State} (hn : NblkReady s)
    (hl : x.legal (nblkOf s) order = true) (hb : Bounded s) (hs : Stands s (x.bits s.cfg.unaryStop)) :
    residualSection order s =
      .ok () { moveBy (x.bits s.cfg.unaryStop).length s with
        res := cellsSet s.res 0 (x.residuals.map wordOfInt) } := by
  simp only [SectionCode.legal, Bool.and_eq_true, decide_eq_true_eq, List.all_eq_true] at hl
  obtain ⟨⟨⟨⟨⟨⟨hm, hpo⟩, hlen⟩, hdiv⟩, hord⟩, hparts⟩, hcounts⟩ := hl
  have hp5 : x.pbits ≤ 5 := by unfold SectionCode.pbits; split <;> omega
  unfold SectionCode.bits at hs ⊢
  obtain ⟨h12, h3⟩ := (stands_append hb).mp hs
  obtain ⟨h1, h2⟩ := (stands_append hb).mp h12
  have hlt := h1.lt hb
  have hlt' := h12.lt hb
  rw [List.length_append, length_uintBits, length_uintBits] at h3 hlt'
  rw [length_uintBits] at h2 hlt
  have hparts3 := readPartitions_of_stands (psize := nblkOf s / 2 ^ x.porder) (order := order) hp5 (parts := x.parts)
    (p := 0) (idx := 0) (s := moveBy (2 + 4) s) hparts (fun j hj => by
      have := congrArg (fun l => l[j]?) hcounts
      simp only [List.getElem?_map, List.getElem?_eq_getElem hj, Option.map_some] at this
      cases j with
      | zero => simpa using this
      | succ j =>
        rw [List.getElem?_cons_succ, List.getElem?_replicate, if_pos (by omega)] at this
        simpa using this) (by simpa [Bounded] using hb) h3
  rw [residualSection, bind_of_ok (checkedNblk_of_ready hn),
    bind_of_ok (readBits_of_stands (by omega) hb h1), require_of hm, pure_andThen]
  rw [bind_of_ok (readBits_of_stands (by omega) (by simpa [Bounded] using hb) h2), require_of hdiv, pure_andThen,
    require_of hord, pure_andThen, moveBy_moveBy hlt]
  rw [hlen] at hparts3
  rw [show (if x.method = 0 then 4 else 5) = x.pbits from rfl, hparts3]
  rw [List.length_append, List.length_append, length_uintBits, length_uintBits, ← moveBy_moveBy hlt']
  rfl

/-! Reconstruction. -/

/-- The weighted history (R181, R184): coefficient j weights the sample j + 1 places back. -/
theorem weightedHistory_of_holds {coefficient : Nat → Cmd Int} {c i : Nat} {s : State} {qs xs : List Int}
    (hq : ∀ j (h : j < qs.length), coefficient j s = .ok (qs[j]'h) s) (hi : xs.length = i) (hlen : qs.length ≤ i)
    (hx : holdsAt s.smp (smpAddress c 0) xs = true) (hfit : ∀ v ∈ xs, FitsEntry v) :
    ∀ {count j : Nat} {acc : Int}, j + count = qs.length →
      weightedHistory coefficient c i count j acc s = .ok (acc + weigh (qs.drop j) (xs.reverse.drop j)) s
  | 0, j, acc, h => by
    rw [List.drop_eq_nil_of_le (by omega : qs.length ≤ j)]; simp [weightedHistory, weigh, Cmd.pure]
  | n + 1, j, acc, h => by
    have hj : j < qs.length := by omega
    have hj' : j < xs.reverse.length := by rw [List.length_reverse]; omega
    have hval : xs.reverse[j]'hj' = xs[i - 1 - j]'(by omega) := by
      rw [List.getElem_reverse]; congr 1; omega
    have hread : readSmp c (i - 1 - j) s = .ok (xs[i - 1 - j]'(by omega)) s := by
      have := (holdsAt_iff _ _ _).mp hx (i - 1 - j) (by omega)
      have e : smpAddress c 0 + (i - 1 - j) = smpAddress c (i - 1 - j) := by simp [smpAddress]
      rw [e] at this
      simp [readSmp, this, toInt_wordOfInt (hfit _ (List.getElem_mem _))]
    rw [weightedHistory, bind_of_ok (hq j hj), bind_of_ok hread,
      weightedHistory_of_holds hq hi hlen hx hfit (by omega), List.drop_eq_getElem_cons hj,
      List.drop_eq_getElem_cons hj', weigh, hval, Int.add_assoc]

/-- The loop of FIXP and LPCP (R180, R182) over samples that fit: from sample i on, SMP[c] takes the followed samples. -/
theorem reconstruct_of_holds {prediction : Nat → Cmd Int} {qs : List Int} {shift order c w : Nat} (hw : w ≤ 64) :
    ∀ {rs xs : List Int} {s : State},
      (∀ (ys : List Int) (t : State), t = { s with smp := t.smp } → order ≤ ys.length → (∀ v ∈ ys, FitsEntry v) →
        holdsAt t.smp (smpAddress c 0) ys = true →
        prediction ys.length t = .ok (weigh qs ys.reverse >>> shift) t) →
      order ≤ xs.length → holdsAt s.smp (smpAddress c 0) xs = true → (∀ v ∈ xs, FitsEntry v) →
      holdsAt s.res (xs.length - order) rs = true → (∀ r ∈ rs, FitsEntry r) →
      (∀ v ∈ follow qs shift xs.reverse rs, InRange v w) →
      Cmd.forRange (fun i =>
        (readRes (i - order)).bind fun r =>
        (prediction i).bind fun p =>
        (Cmd.require (InRange (r + p) w) .malformedStream).andThen <|
        writeSmp c i (r + p)) rs.length xs.length s =
        .ok () { s with smp := cellsSet s.smp (smpAddress c xs.length) ((follow qs shift xs.reverse rs).map wordOfInt) }
  | [], xs, s, _, _, _, _, _, _, _ => by simp [follow, cellsSet, Cmd.pure]
  | r :: rs, xs, s, hpred, ho, hx, hxf, hr, hrf, hin => by
    simp only [holdsAt, Bool.and_eq_true, decide_eq_true_eq] at hr
    set x := r + (weigh qs xs.reverse >>> shift) with hxdef
    have hfollow : follow qs shift xs.reverse (r :: rs) = x :: follow qs shift (x :: xs.reverse) rs := rfl
    rw [hfollow] at hin
    have hxin : InRange x w := hin x (by simp)
    have hxfit : FitsEntry x := inRange_mono hxin hw
    have hres : readRes (xs.length - order) s = .ok r s := by
      simp [readRes, hr.1, toInt_wordOfInt (hrf r (by simp))]
    have hbody : ((readRes (xs.length - order)).bind fun r =>
        (prediction xs.length).bind fun p =>
        (Cmd.require (InRange (r + p) w) .malformedStream).andThen <|
        writeSmp c xs.length (r + p)) s = .ok () (setSmp c xs.length (wordOfInt x) s) := by
      rw [bind_of_ok hres, bind_of_ok (hpred xs s rfl ho hxf hx), require_of hxin]; rfl
    have haddr : smpAddress c 0 + xs.length = smpAddress c xs.length := by simp [smpAddress]
    have hnew : holdsAt (setSmp c xs.length (wordOfInt x) s).smp (smpAddress c 0) (xs ++ [x]) = true := by
      rw [holdsAt_append, Bool.and_eq_true, setSmp_smp, haddr]
      constructor
      · rw [← hx]
        exact holdsAt_congr fun y _ h2 => by rw [cellGet_cellSet, if_neg (by omega)]
      · simp [holdsAt]
    have ih := reconstruct_of_holds hw (prediction := prediction) (qs := qs) (shift := shift) (order := order) (c := c)
      (rs := rs) (xs := xs ++ [x]) (s := setSmp c xs.length (wordOfInt x) s)
      (fun ys t ht => hpred ys t (by rw [ht]; simp [setSmp])) (by simp; omega) hnew
      (by simp only [List.mem_append, List.mem_singleton]; rintro v (h | rfl); exacts [hxf v h, hxfit])
      (by rw [setSmp_res, List.length_append, List.length_singleton,
            show xs.length + 1 - order = xs.length - order + 1 by omega]; exact hr.2)
      (fun q hq => hrf q (by simp [hq]))
      (by rw [List.reverse_append]; exact fun v hv => hin v (by simpa using Or.inr hv))
    rw [List.length_append, List.length_singleton, List.reverse_append] at ih
    rw [List.length_cons, forRange_succ, andThen_of_ok hbody, ih, hfollow]
    simp [cellsSet, setSmp, smpAddress, Nat.add_assoc]

/-- exec's coefficients are those R181 writes. -/
theorem fixedCoefficients_eq {order : Nat} (h : order ≤ 4) :
    fixedCoefficients order = (List.range order).map (fixedCoefficient order) := by
  interval_cases order <;> rfl

/-- exec's pairs are those of R242 and R243. -/
theorem decorrelate_eq {a : Nat} (h8 : 8 ≤ a) (h : a ≤ 10) (x y : Int) : decorrelate a x y = leftRight a x y := by
  interval_cases a
  exacts [rfl, rfl, by simp [decorrelate, leftRight, Int.shiftRight_eq_div_pow]]

/-- FRAME's extra bit is that of R246. -/
theorem sideBit_eq (a c : Nat) : sideBit a c = sideExtra a c := by
  unfold sideBit sideExtra
  congr 1
  simp only [List.contains_eq_mem, List.mem_cons, List.not_mem_nil, or_false, Prod.mk.injEq, decide_eq_true_eq, eq_iff_iff]
  tauto

/-- `FixedPred` (R181). -/
theorem fixedPrediction_of_holds {order c : Nat} {xs : List Int} {s : State} (h4 : order ≤ 4) (ho : order ≤ xs.length)
    (hx : holdsAt s.smp (smpAddress c 0) xs = true) (hfit : ∀ v ∈ xs, FitsEntry v) :
    fixedPrediction order c xs.length s = .ok (weigh (fixedCoefficients order) xs.reverse >>> (0 : Nat)) s := by
  have hl : (fixedCoefficients order).length = order := by simp [fixedCoefficients_eq h4]
  rw [fixedPrediction]
  have := weightedHistory_of_holds (coefficient := fun j => Cmd.pure (fixedCoefficient order j)) (c := c)
    (i := xs.length) (s := s) (qs := fixedCoefficients order) (xs := xs) (fun j hj => by simp [fixedCoefficients_eq h4])
    rfl (by omega) hx hfit (count := order) (j := 0) (acc := 0) (by omega)
  rw [this]
  simp

/-- The LPC prediction (R182, R185). -/
theorem lpcPrediction_of_holds {order shift c : Nat} {xs : List Int} {s : State} (ho : order ≤ xs.length)
    (hq : RegistersDefined s ((List.range order).map (0x40 + ·)))
    (hx : holdsAt s.smp (smpAddress c 0) xs = true) (hfit : ∀ v ∈ xs, FitsEntry v) :
    lpcPrediction order shift c xs.length s = .ok (weigh (coefficientsOf s order) xs.reverse >>> shift) s := by
  have hl : (coefficientsOf s order).length = order := by simp [coefficientsOf]
  have hdef : ∀ j, j < order → s.undef.getLsbD (0x40 + j) = false := by
    intro j hj
    unfold RegistersDefined at hq
    rw [List.all_eq_true] at hq
    have := hq (0x40 + j) (by simp; omega)
    simpa using this
  have := weightedHistory_of_holds (coefficient := readQlp) (c := c) (i := xs.length) (s := s)
    (qs := coefficientsOf s order) (xs := xs) (fun j hj => by
      rw [hl] at hj
      rw [readQlp, andThen_of_ok (useRegister_of_defined (hdef j hj))]
      simp [coefficientsOf])
    rfl (by omega) hx hfit (count := order) (j := 0) (acc := 0) (by omega)
  rw [lpcPrediction, bind_of_ok this]
  simp [Cmd.pure]

end Sys2Proof.Machine
end

