-- ==== Sys2Proof/Laws/Frames.lean ====
section
/-! SUPPORT. What each shared operation may write, however it ends: one lemma per operation. A relation below names the only
fields that can differ between the state an operation starts in and the one it ends in. -/

namespace Sys2Proof.Machine

/-- Only the record of a model fault may differ. -/
def NoteOnly (s t : State) : Prop := t = { s with undefRead := t.undefRead }

/-- Only the cursor and the CRCs may differ. -/
def CursorOnly (s t : State) : Prop := t = { s with pos := t.pos, crc8 := t.crc8, crc16 := t.crc16 }

/-- Only SMP and the record of a model fault may differ. -/
def SamplesOnly (s t : State) : Prop := t = { s with smp := t.smp, undefRead := t.undefRead }

/-- Only the cursor, the CRCs, RES and the record of a model fault may differ. -/
def ResidualsOnly (s t : State) : Prop :=
  t = { s with pos := t.pos, crc8 := t.crc8, crc16 := t.crc16, res := t.res, undefRead := t.undefRead }

/-- Only what SUBF writes and the record of a model fault may differ. -/
def SubframeOnly (s t : State) : Prop :=
  t = { s with pos := t.pos, crc8 := t.crc8, crc16 := t.crc16, sf := t.sf, qlp := t.qlp, undef := t.undef,
               res := t.res, smp := t.smp, undefRead := t.undefRead }

/-- Only what FHDR writes and the record of a model fault may differ. -/
def HeaderOnly (s t : State) : Prop :=
  t = { s with pos := t.pos, crc8 := t.crc8, crc16 := t.crc16, fh := t.fh, undef := t.undef,
               undefRead := t.undefRead }

/-- Only the cursor, the CRCs and STATUS.VALID may differ. -/
def FooterOnly (s t : State) : Prop :=
  t = { s with pos := t.pos, crc8 := t.crc8, crc16 := t.crc16, valid := t.valid }

theorem noteOnly_closed : Closed NoteOnly where
  refl _ := rfl
  trans h1 h2 := by unfold NoteOnly at *; rw [h2, h1]

theorem cursorOnly_closed : Closed CursorOnly where
  refl _ := rfl
  trans h1 h2 := by unfold CursorOnly at *; rw [h2, h1]

theorem samplesOnly_closed : Closed SamplesOnly where
  refl _ := rfl
  trans h1 h2 := by unfold SamplesOnly at *; rw [h2, h1]

theorem residualsOnly_closed : Closed ResidualsOnly where
  refl _ := rfl
  trans h1 h2 := by unfold ResidualsOnly at *; rw [h2, h1]

theorem subframeOnly_closed : Closed SubframeOnly where
  refl _ := rfl
  trans h1 h2 := by unfold SubframeOnly at *; rw [h2, h1]

theorem headerOnly_closed : Closed HeaderOnly where
  refl _ := rfl
  trans h1 h2 := by unfold HeaderOnly at *; rw [h2, h1]

theorem footerOnly_closed : Closed FooterOnly where
  refl _ := rfl
  trans h1 h2 := by unfold FooterOnly at *; rw [h2, h1]

theorem NoteOnly.samples {s t : State} (h : NoteOnly s t) : SamplesOnly s t := by
  unfold NoteOnly SamplesOnly at *; rw [h]

theorem NoteOnly.residuals {s t : State} (h : NoteOnly s t) : ResidualsOnly s t := by
  unfold NoteOnly ResidualsOnly at *; rw [h]

theorem NoteOnly.header {s t : State} (h : NoteOnly s t) : HeaderOnly s t := by
  unfold NoteOnly HeaderOnly at *; rw [h]

theorem CursorOnly.residuals {s t : State} (h : CursorOnly s t) : ResidualsOnly s t := by
  unfold CursorOnly ResidualsOnly at *; rw [h]

theorem CursorOnly.header {s t : State} (h : CursorOnly s t) : HeaderOnly s t := by
  unfold CursorOnly HeaderOnly at *; rw [h]

theorem CursorOnly.footer {s t : State} (h : CursorOnly s t) : FooterOnly s t := by
  unfold CursorOnly FooterOnly at *; rw [h]

theorem ResidualsOnly.subframe {s t : State} (h : ResidualsOnly s t) : SubframeOnly s t := by
  unfold ResidualsOnly SubframeOnly at *; rw [h]

theorem SamplesOnly.subframe {s t : State} (h : SamplesOnly s t) : SubframeOnly s t := by
  unfold SamplesOnly SubframeOnly at *; rw [h]

/-! Reads of the state and of BUF. -/

section Reads

variable {R : State → State → Prop} (hR : Closed R)

include hR

theorem memRead_keeps (a : Nat) : Keeps R (memRead a) := by
  intro s; unfold memRead; cases cellGet s.buf a
  exacts [trivial, hR.refl s]

theorem bitAt_keeps (p : Nat) : Keeps R (bitAt p) := .bind hR (memRead_keeps hR _) fun _ => .pure hR _

theorem peekBits_keeps : ∀ n p v, Keeps R (peekBits n p v)
  | 0, _, v => .pure hR v
  | n + 1, p, _ => .bind hR (bitAt_keeps hR p) fun _ => peekBits_keeps n _ _

theorem scanUnary_keeps : ∀ left q, Keeps R (scanUnary left q)
  | 0, _ => .raise hR _
  | n + 1, _ => fun s => (Keeps.bind hR (bitAt_keeps hR _) fun _ => .ite (.pure hR _) (scanUnary_keeps n _)) s

theorem readRes_keeps (i : Nat) : Keeps R (readRes i) := by
  intro s; unfold readRes; cases cellGet s.res i
  exacts [trivial, hR.refl s]

theorem readSmp_keeps (c i : Nat) : Keeps R (readSmp c i) := by
  intro s; unfold readSmp; cases cellGet s.smp (smpAddress c i)
  exacts [trivial, hR.refl s]

end Reads

/-- Reading a register records at most a model fault. -/
theorem useRegister_keeps (n : Nat) : Keeps NoteOnly (useRegister n) := by
  intro s; unfold useRegister; cases s.undef.getLsbD n <;> cases s.spoiled.getLsbD n
  exacts [rfl, rfl, rfl, trivial]

theorem checkedNblk_keeps : Keeps NoteOnly checkedNblk :=
  .andThen noteOnly_closed (useRegister_keeps _) <|
  .bind noteOnly_closed (.read noteOnly_closed _) fun _ =>
  .andThen noteOnly_closed (.require noteOnly_closed _ _) (.pure noteOnly_closed _)

theorem readShift_keeps : Keeps NoteOnly readShift :=
  .andThen noteOnly_closed (useRegister_keeps _) (.read noteOnly_closed _)

theorem readQlp_keeps (j : Nat) : Keeps NoteOnly (readQlp j) :=
  .andThen noteOnly_closed (useRegister_keeps _) (.read noteOnly_closed _)

/-! The cursor: it writes POS and the CRCs. -/

theorem advanceOne_keeps : Keeps CursorOnly advanceOne := by
  intro s
  unfold advanceOne
  by_cases h : (s.pos.toNat + 1) % 8 = 0
  · simp only [h, if_true, Cmd.bind, memRead]
    cases cellGet (setPos (s.pos.toNat + 1) s).buf _
    exacts [trivial, rfl]
  · simp only [h, if_false]; rfl

theorem advance_keeps : ∀ n, Keeps CursorOnly (advance n)
  | 0 => .pure cursorOnly_closed _
  | n + 1 => .andThen cursorOnly_closed advanceOne_keeps (advance_keeps n)

theorem readBits_keeps (n : Nat) : Keeps CursorOnly (readBits n) :=
  .of_apply fun s => by
    unfold readBits; split
    · exact ⟨Cmd.raise .outOfData, .raise cursorOnly_closed _, rfl⟩
    · exact ⟨_, .bind cursorOnly_closed (peekBits_keeps cursorOnly_closed _ _ _) fun _ =>
        .andThen cursorOnly_closed (advance_keeps n) (.pure cursorOnly_closed _), rfl⟩

theorem readSigned_keeps (n : Nat) : Keeps CursorOnly (readSigned n) :=
  .ite (.pure cursorOnly_closed _) (.bind cursorOnly_closed (readBits_keeps n) fun _ => .pure cursorOnly_closed _)

theorem readUnary_keeps : Keeps CursorOnly readUnary := fun s =>
  (Keeps.bind cursorOnly_closed (scanUnary_keeps cursorOnly_closed _ 0) fun q =>
    .andThen cursorOnly_closed (advance_keeps (q + 1)) (.pure cursorOnly_closed q)) s

theorem readRice_keeps (k : Nat) : Keeps CursorOnly (readRice k) :=
  .bind cursorOnly_closed readUnary_keeps fun _ =>
  .andThen cursorOnly_closed (.require cursorOnly_closed _ _) <|
  .bind cursorOnly_closed (readBits_keeps k) fun _ => .pure cursorOnly_closed _

theorem byteAlign_keeps : Keeps CursorOnly byteAlign := fun s => advance_keeps _ s

/-! The predictor loops: they write SMP. -/

theorem writeSmp_keeps (c i : Nat) (v : Int) : Keeps SamplesOnly (writeSmp c i v) := .update fun _ => rfl

theorem weightedHistory_keeps {coefficient : Nat → Cmd Int} (h : ∀ j, Keeps NoteOnly (coefficient j)) (c i : Nat) :
    ∀ count j acc, Keeps NoteOnly (weightedHistory coefficient c i count j acc)
  | 0, _, _ => .pure noteOnly_closed _
  | n + 1, j, _ =>
    .bind noteOnly_closed (h j) fun _ =>
    .bind noteOnly_closed (readSmp_keeps noteOnly_closed _ _) fun _ => weightedHistory_keeps h c i n (j + 1) _

theorem fixedPrediction_keeps (order c i : Nat) : Keeps NoteOnly (fixedPrediction order c i) :=
  weightedHistory_keeps (fun _ => .pure noteOnly_closed _) _ _ _ _ _

theorem lpcPrediction_keeps (order shift c i : Nat) : Keeps NoteOnly (lpcPrediction order shift c i) :=
  .bind noteOnly_closed (weightedHistory_keeps readQlp_keeps _ _ _ _ _) fun _ => .pure noteOnly_closed _

theorem reconstruct_keeps {prediction : Nat → Cmd Int} (h : ∀ i, Keeps NoteOnly (prediction i)) (order nblk c w : Nat) :
    Keeps SamplesOnly (reconstruct prediction order nblk c w) :=
  .forRange samplesOnly_closed fun i _ _ =>
    .bind samplesOnly_closed (readRes_keeps samplesOnly_closed _) fun _ =>
    .bind samplesOnly_closed ((h i).mono fun _ _ => NoteOnly.samples) fun _ =>
    .andThen samplesOnly_closed (.require samplesOnly_closed _ _) (writeSmp_keeps _ _ _)

theorem fixedRecon_keeps (order nblk c w : Nat) : Keeps SamplesOnly (fixedRecon order nblk c w) :=
  reconstruct_keeps (fixedPrediction_keeps order c) _ _ _ _

theorem lpcRecon_keeps (order shift nblk c w : Nat) : Keeps SamplesOnly (lpcRecon order shift nblk c w) :=
  reconstruct_keeps (lpcPrediction_keeps order shift c) _ _ _ _

theorem predictorChecks_keeps (order c w : Nat) : Keeps NoteOnly (predictorChecks order c w) :=
  .bind noteOnly_closed checkedNblk_keeps fun _ =>
  .andThen noteOnly_closed (.require noteOnly_closed _ _) <|
  .andThen noteOnly_closed
    (.forRange noteOnly_closed fun _ _ _ =>
      .bind noteOnly_closed (readSmp_keeps noteOnly_closed _ _) fun _ => .require noteOnly_closed _ _)
    (.pure noteOnly_closed _)

/-! The residual section: it writes the cursor, the CRCs and RES. -/

theorem writeRes_keeps (i : Nat) (v : Int) : Keeps ResidualsOnly (writeRes i v) := .update fun _ => rfl

theorem readPartition_keeps (pbits esc count idx : Nat) : Keeps ResidualsOnly (readPartition pbits esc count idx) :=
  .bind residualsOnly_closed ((readBits_keeps _).mono fun _ _ => CursorOnly.residuals) fun _ =>
  .ite
    (.bind residualsOnly_closed ((readBits_keeps _).mono fun _ _ => CursorOnly.residuals) fun _ =>
      .forRange residualsOnly_closed fun _ _ _ =>
        .bind residualsOnly_closed ((readSigned_keeps _).mono fun _ _ => CursorOnly.residuals) fun _ =>
          writeRes_keeps _ _)
    (.forRange residualsOnly_closed fun _ _ _ =>
      .bind residualsOnly_closed ((readRice_keeps _).mono fun _ _ => CursorOnly.residuals) fun _ =>
        writeRes_keeps _ _)

theorem readPartitions_keeps (pbits esc psize order : Nat) :
    ∀ parts p idx, Keeps ResidualsOnly (readPartitions pbits esc psize order parts p idx)
  | 0, _, _ => .pure residualsOnly_closed _
  | n + 1, _, _ =>
    .andThen residualsOnly_closed (readPartition_keeps _ _ _ _) (readPartitions_keeps pbits esc psize order n _ _)

theorem residualSection_keeps (order : Nat) : Keeps ResidualsOnly (residualSection order) :=
  .bind residualsOnly_closed (checkedNblk_keeps.mono fun _ _ => NoteOnly.residuals) fun _ =>
  .bind residualsOnly_closed ((readBits_keeps _).mono fun _ _ => CursorOnly.residuals) fun _ =>
  .andThen residualsOnly_closed (.require residualsOnly_closed _ _) <|
  .bind residualsOnly_closed ((readBits_keeps _).mono fun _ _ => CursorOnly.residuals) fun _ =>
  .andThen residualsOnly_closed (.require residualsOnly_closed _ _) <|
  .andThen residualsOnly_closed (.require residualsOnly_closed _ _) <|
  readPartitions_keeps _ _ _ _ _ _ _

/-! The subframe: it writes the cursor, the CRCs, SF, QLP, RES and SMP. -/

theorem readSamples_keeps (c ebps count : Nat) : Keeps SubframeOnly (readSamples c ebps count) :=
  .forRange subframeOnly_closed fun _ _ _ =>
    .bind subframeOnly_closed ((readSigned_keeps _).mono fun _ _ h => h.residuals.subframe) fun _ =>
      (writeSmp_keeps _ _ _).mono fun _ _ => SamplesOnly.subframe

theorem constantBody_keeps (c ebps nblk : Nat) : Keeps SubframeOnly (constantBody c ebps nblk) :=
  .bind subframeOnly_closed ((readSigned_keeps _).mono fun _ _ h => h.residuals.subframe) fun _ =>
  .forRange subframeOnly_closed fun _ _ _ => (writeSmp_keeps _ _ _).mono fun _ _ => SamplesOnly.subframe

theorem fixedBody_keeps (order c ebps nblk : Nat) : Keeps SubframeOnly (fixedBody order c ebps nblk) :=
  .andThen subframeOnly_closed (readSamples_keeps _ _ _) <|
  .andThen subframeOnly_closed ((residualSection_keeps _).mono fun _ _ => ResidualsOnly.subframe) <|
  (fixedRecon_keeps _ _ _ _).mono fun _ _ => SamplesOnly.subframe

theorem lpcBody_keeps (order c ebps nblk : Nat) : Keeps SubframeOnly (lpcBody order c ebps nblk) :=
  .andThen subframeOnly_closed (readSamples_keeps _ _ _) <|
  .bind subframeOnly_closed ((readBits_keeps _).mono fun _ _ h => h.residuals.subframe) fun _ =>
  .andThen subframeOnly_closed (.require subframeOnly_closed _ _) <|
  .andThen subframeOnly_closed (.update fun _ => rfl) <|
  .bind subframeOnly_closed ((readSigned_keeps _).mono fun _ _ h => h.residuals.subframe) fun _ =>
  .andThen subframeOnly_closed (.update fun _ => rfl) <|
  .andThen subframeOnly_closed (.require subframeOnly_closed _ _) <|
  .andThen subframeOnly_closed
    (.forRange subframeOnly_closed fun _ _ _ =>
      .bind subframeOnly_closed ((readSigned_keeps _).mono fun _ _ h => h.residuals.subframe) fun _ =>
        .update fun _ => rfl) <|
  .andThen subframeOnly_closed ((residualSection_keeps _).mono fun _ _ => ResidualsOnly.subframe) <|
  (lpcRecon_keeps _ _ _ _ _).mono fun _ _ => SamplesOnly.subframe

theorem readWasted_keeps (flag : Bool) : Keeps CursorOnly (readWasted flag) :=
  .ite (.bind cursorOnly_closed readUnary_keeps fun _ => .pure cursorOnly_closed _) (.pure cursorOnly_closed _)

theorem shiftSamples_keeps (c wasted nblk : Nat) : Keeps SamplesOnly (shiftSamples c wasted nblk) :=
  .forRange samplesOnly_closed fun _ _ _ =>
    .bind samplesOnly_closed (readSmp_keeps samplesOnly_closed _ _) fun _ => writeSmp_keeps _ _ _

theorem subframeRest_keeps (c bps nblk t order : Nat) (flag : Bool) {body : Nat → Cmd Unit}
    (h : ∀ ebps, Keeps SubframeOnly (body ebps)) : Keeps SubframeOnly (subframeRest c bps nblk t order flag body) :=
  .bind subframeOnly_closed ((readWasted_keeps _).mono fun _ _ h => h.residuals.subframe) fun _ =>
  .andThen subframeOnly_closed (.require subframeOnly_closed _ _) <|
  .andThen subframeOnly_closed (.require subframeOnly_closed _ _) <|
  .andThen subframeOnly_closed (.update fun _ => rfl) <|
  .andThen subframeOnly_closed (h _) <|
  .ite ((shiftSamples_keeps _ _ _).mono fun _ _ => SamplesOnly.subframe) (.pure subframeOnly_closed _)

theorem subframeChecks_keeps (bps : Nat) : Keeps NoteOnly (subframeChecks bps) :=
  .bind noteOnly_closed checkedNblk_keeps fun _ =>
  .bind noteOnly_closed (.read noteOnly_closed _) fun _ =>
  .andThen noteOnly_closed (.require noteOnly_closed _ _) (.pure noteOnly_closed _)

theorem lpcOrderCheck_keeps (order : Nat) : Keeps NoteOnly (lpcOrderCheck order) :=
  .bind noteOnly_closed (.read noteOnly_closed _) fun _ => .require noteOnly_closed _ _

/-- What a kind of subframe checks and writes stays inside what SUBF writes. -/
structure SubframeKind.Keeping (k : SubframeKind) : Prop where
  check : Keeps NoteOnly k.check
  body : ∀ c ebps nblk, Keeps SubframeOnly (k.body c ebps nblk)

theorem constantKind_keeping : constantKind.Keeping := ⟨.pure noteOnly_closed _, constantBody_keeps⟩
theorem verbatimKind_keeping : verbatimKind.Keeping := ⟨.pure noteOnly_closed _, readSamples_keeps⟩
theorem fixedKind_keeping (order : Nat) : (fixedKind order).Keeping := ⟨.pure noteOnly_closed _, fixedBody_keeps order⟩
theorem lpcKind_keeping (order : Nat) : (lpcKind order).Keeping := ⟨lpcOrderCheck_keeps order, lpcBody_keeps order⟩

theorem classify_keeping {t : Nat} {k : SubframeKind} (h : classify t = some k) : k.Keeping := by
  unfold classify at h
  split_ifs at h <;> cases h
  exacts [constantKind_keeping, verbatimKind_keeping, fixedKind_keeping _, lpcKind_keeping _]

theorem subframe_keeps (c bps : Nat) : Keeps SubframeOnly (subframe c bps) := by
  refine .bind subframeOnly_closed ((subframeChecks_keeps _).mono fun _ _ h => h.residuals.subframe) fun _ =>
    .bind subframeOnly_closed ((readBits_keeps _).mono fun _ _ h => h.residuals.subframe) fun _ =>
    .andThen subframeOnly_closed (.require subframeOnly_closed _ _) <|
    .bind subframeOnly_closed ((readBits_keeps _).mono fun _ _ h => h.residuals.subframe) fun t => ?_
  cases h : classify t with
  | none => exact .raise subframeOnly_closed _
  | some k =>
    exact .andThen subframeOnly_closed ((classify_keeping h).check.mono fun _ _ h => h.residuals.subframe) <|
      .bind subframeOnly_closed ((readBits_keeps _).mono fun _ _ h => h.residuals.subframe) fun _ =>
        subframeRest_keeps _ _ _ _ _ _ fun _ => (classify_keeping h).body _ _ _

theorem subframeWithHeader_keeps (c bps t : Nat) {k : SubframeKind} (h : k.Keeping) (flag : Bool) :
    Keeps SubframeOnly (subframeWithHeader c bps t k flag) :=
  .bind subframeOnly_closed ((subframeChecks_keeps _).mono fun _ _ h => h.residuals.subframe) fun _ =>
  .andThen subframeOnly_closed ((readBits_keeps _).mono fun _ _ h => h.residuals.subframe) <|
  .andThen subframeOnly_closed ((readBits_keeps _).mono fun _ _ h => h.residuals.subframe) <|
  .andThen subframeOnly_closed (h.check.mono fun _ _ h => h.residuals.subframe) <|
  .andThen subframeOnly_closed ((readBits_keeps _).mono fun _ _ h => h.residuals.subframe) <|
  subframeRest_keeps _ _ _ _ _ _ fun _ => h.body _ _ _

/-! The decorrelator: it writes SMP. -/

theorem decorrelatedPairs_keeps (a bps : Nat) : ∀ count i, Keeps NoteOnly (decorrelatedPairs a bps count i)
  | 0, _ => .pure noteOnly_closed _
  | n + 1, i =>
    .bind noteOnly_closed (readSmp_keeps noteOnly_closed _ _) fun _ =>
    .bind noteOnly_closed (readSmp_keeps noteOnly_closed _ _) fun _ =>
    .andThen noteOnly_closed (.require noteOnly_closed _ _) <|
    .bind noteOnly_closed (decorrelatedPairs_keeps a bps n (i + 1)) fun _ => .pure noteOnly_closed _

theorem writePairs_keeps : ∀ pairs i, Keeps SamplesOnly (writePairs pairs i)
  | [], _ => .pure samplesOnly_closed _
  | _ :: rest, i =>
    .andThen samplesOnly_closed (writeSmp_keeps _ _ _) <|
    .andThen samplesOnly_closed (writeSmp_keeps _ _ _) (writePairs_keeps rest (i + 1))

theorem decorrelator_keeps (a bps : Nat) : Keeps SamplesOnly (decorrelator a bps) :=
  .bind samplesOnly_closed (checkedNblk_keeps.mono fun _ _ => NoteOnly.samples) fun _ =>
  .ite (.pure samplesOnly_closed _) <|
  .bind samplesOnly_closed ((decorrelatedPairs_keeps _ _ _ _).mono fun _ _ => NoteOnly.samples) fun _ =>
  writePairs_keeps _ _

/-! The frame header: it writes the cursor, the CRCs and FH. -/

theorem readNumberTail_keeps : ∀ n acc, Keeps CursorOnly (readNumberTail n acc)
  | 0, _ => .pure cursorOnly_closed _
  | n + 1, _ =>
    .bind cursorOnly_closed (readBits_keeps _) fun _ =>
    .andThen cursorOnly_closed (.require cursorOnly_closed _ _) (readNumberTail_keeps n _)

theorem readNumber_keeps : Keeps CursorOnly readNumber :=
  .bind cursorOnly_closed (readBits_keeps _) fun _ =>
  .ite (.pure cursorOnly_closed _) <| .ite (.raise cursorOnly_closed _) <|
  .ite (readNumberTail_keeps _ _) <| .ite (readNumberTail_keeps _ _) <| .ite (readNumberTail_keeps _ _) <|
  .ite (readNumberTail_keeps _ _) <| .ite (readNumberTail_keeps _ _) <| .ite (readNumberTail_keeps _ _) <|
  .raise cursorOnly_closed _

theorem blockSize_keeps (code : Nat) : Keeps CursorOnly (blockSize code) :=
  .ite (.pure cursorOnly_closed _) <| .ite (.pure cursorOnly_closed _) <|
  .ite (.bind cursorOnly_closed (readBits_keeps _) fun _ => .pure cursorOnly_closed _) <|
  .ite (.bind cursorOnly_closed (readBits_keeps _) fun _ =>
    .andThen cursorOnly_closed (.require cursorOnly_closed _ _) (.pure cursorOnly_closed _)) <|
  .pure cursorOnly_closed _

theorem readSiRate_keeps : Keeps NoteOnly readSiRate :=
  .andThen noteOnly_closed (useRegister_keeps _) (.read noteOnly_closed _)

theorem readSiChannels_keeps : Keeps NoteOnly readSiChannels :=
  .andThen noteOnly_closed (useRegister_keeps _) (.read noteOnly_closed _)

theorem readSiBps_keeps : Keeps NoteOnly readSiBps :=
  .andThen noteOnly_closed (useRegister_keeps _) (.read noteOnly_closed _)

theorem readSiMaxBlock_keeps : Keeps NoteOnly readSiMaxBlock :=
  .andThen noteOnly_closed (useRegister_keeps _) (.read noteOnly_closed _)

theorem sampleRate_keeps (code : Nat) : Keeps HeaderOnly (sampleRate code) := by
  have bits : ∀ n, Keeps HeaderOnly (readBits n) := fun n => (readBits_keeps n).mono fun _ _ => CursorOnly.header
  unfold sampleRate
  split
  exacts [readSiRate_keeps.mono fun _ _ => NoteOnly.header,
    .pure headerOnly_closed _, .pure headerOnly_closed _, .pure headerOnly_closed _, .pure headerOnly_closed _,
    .pure headerOnly_closed _, .pure headerOnly_closed _, .pure headerOnly_closed _, .pure headerOnly_closed _,
    .pure headerOnly_closed _, .pure headerOnly_closed _, .pure headerOnly_closed _,
    .bind headerOnly_closed (bits _) fun _ => .pure headerOnly_closed _, bits _,
    .bind headerOnly_closed (bits _) fun _ => .pure headerOnly_closed _, .raise headerOnly_closed _]

theorem sampleSize_keeps (code : Nat) : Keeps HeaderOnly (sampleSize code) := by
  unfold sampleSize
  split
  exacts [readSiBps_keeps.mono fun _ _ => NoteOnly.header, .pure headerOnly_closed _, .pure headerOnly_closed _,
    .pure headerOnly_closed _, .pure headerOnly_closed _, .pure headerOnly_closed _, .raise headerOnly_closed _]

theorem frameHeader_keeps : Keeps HeaderOnly frameHeader := by
  have bits : ∀ n, Keeps HeaderOnly (readBits n) := fun n => (readBits_keeps n).mono fun _ _ => CursorOnly.header
  have closed := headerOnly_closed
  refine .bind closed (.read closed _) fun _ => .andThen closed (.require closed _ _) <|
    .bind closed (.read closed _) fun _ => .andThen closed (.require closed _ _) <|
    .andThen closed (.update fun _ => rfl) <| .bind closed (bits _) fun _ => .bind closed (.read closed _) fun _ =>
    .andThen closed (.require closed _ _) <|
    .bind closed (bits _) fun _ => .andThen closed (.require closed _ _) <|
    .bind closed (bits _) fun _ =>
    .bind closed (bits _) fun _ => .andThen closed (.require closed _ _) <|
    .bind closed (bits _) fun _ => .andThen closed (.require closed _ _) <|
    .bind closed (bits _) fun _ => .andThen closed (.require closed _ _) <|
    .bind closed (bits _) fun _ => .andThen closed (.require closed _ _) <|
    .bind closed (bits _) fun _ => .andThen closed (.require closed _ _) <|
    .bind closed (readNumber_keeps.mono fun _ _ => CursorOnly.header) fun _ =>
    .bind closed ((blockSize_keeps _).mono fun _ _ => CursorOnly.header) fun _ =>
    .bind closed (sampleRate_keeps _) fun _ => .bind closed (.read closed _) fun _ =>
    .bind closed (bits _) fun _ => .andThen closed (.require closed _ _) <|
    .bind closed (sampleSize_keeps _) fun _ =>
    .bind closed (readSiChannels_keeps.mono fun _ _ => NoteOnly.header) fun _ =>
    .bind closed (readSiBps_keeps.mono fun _ _ => NoteOnly.header) fun _ => .andThen closed (.require closed _ _) <|
    .bind closed (readSiMaxBlock_keeps.mono fun _ _ => NoteOnly.header) fun _ =>
    .andThen closed (.require closed _ _) <|
    .bind closed (.read closed _) fun _ => .andThen closed (.require closed _ _) <|
    .andThen closed (.update fun s => ?_) (.update fun _ => rfl)
  cases h : s.cfg.crc16FromSync <;> simp [HeaderOnly, setCrcs]

/-! The frame footer: it writes the cursor, the CRCs and STATUS.VALID. -/

theorem frameFooter_keeps : Keeps FooterOnly frameFooter :=
  .andThen footerOnly_closed (byteAlign_keeps.mono fun _ _ => CursorOnly.footer) <|
  .bind footerOnly_closed (.read footerOnly_closed _) fun _ =>
  .bind footerOnly_closed ((readBits_keeps _).mono fun _ _ => CursorOnly.footer) fun _ =>
  .ite (.andThen footerOnly_closed (.update fun _ => rfl) (.pure footerOnly_closed _))
    (.andThen footerOnly_closed (.update fun _ => rfl) (.pure footerOnly_closed _))


end Sys2Proof.Machine
end

