-- ==== Sys2Proof/Laws/Ends.lean ====
section
/-! SUPPORT. The fatal end (60_exceptions.md R302), and what the next step is. -/

namespace Sys2Proof.Machine

/-- The state a command's parts leave, its snapshot the one taken at its start. -/
def SnapOf (s t : State) : Prop :=
  t.snap = some { pos := s.pos, crc8 := s.crc8, crc16 := s.crc16, result := s.result }

theorem snapOf_beginCommand (s : State) : SnapOf s (beginCommand s) := rfl

/-- Whatever a command wrote to POS, CRC8, CRC16 and RESULT is put back. -/
theorem restoreSnapshot_of_snapOf {s t : State} (h : SnapOf s t) :
    restoreSnapshot t =
      { t with pos := s.pos, crc8 := s.crc8, crc16 := s.crc16, result := s.result, snap := none } := by
  unfold SnapOf at h
  simp [restoreSnapshot, h]

/-- R303's marking keeps every field but FH, SF, QLP, RES, SMP, the marks of both sorts and the count of free values. -/
theorem undefine_keeps (k : CommandKind) (t : State) :
    undefine k t = { t with fh := (undefine k t).fh, sf := (undefine k t).sf, qlp := (undefine k t).qlp,
                            undef := (undefine k t).undef, spoiled := (undefine k t).spoiled,
                            res := (undefine k t).res, smp := (undefine k t).smp,
                            freeCtr := (undefine k t).freeCtr } := by
  cases k <;> rfl

/-- FH is only marked by FRAME (R303). -/
theorem undefine_fh (k : CommandKind) (t : State) (h : k ≠ .frame) : (undefine k t).fh = t.fh := by
  cases k <;> first | rfl | exact absurd rfl h

/-- The fatal end (R302), whatever the command: the snapshot is restored, CODE and STICKY are written. -/
theorem fatalEnd_restores {k : CommandKind} {c : Code} {s t : State} (h : SnapOf s t) :
    (fatalEnd k c t).pos = s.pos ∧ (fatalEnd k c t).crc8 = s.crc8 ∧ (fatalEnd k c t).crc16 = s.crc16 ∧
    (fatalEnd k c t).result = s.result ∧ (fatalEnd k c t).code = c ∧ (fatalEnd k c t).sticky = true ∧
    (fatalEnd k c t).snap = none := by
  simp only [fatalEnd, restoreSnapshot_of_snapOf h]
  split_ifs
  all_goals first
    | exact ⟨rfl, rfl, rfl, rfl, rfl, rfl, rfl⟩
    | (rw [undefine_keeps]; exact ⟨rfl, rfl, rfl, rfl, rfl, rfl, rfl⟩)

/-- The fatal end touches nothing of the host's (R302). -/
theorem fatalEnd_hostState {k : CommandKind} {c : Code} {s t : State} (h : SnapOf s t) :
    (fatalEnd k c t).cfg = t.cfg ∧ (fatalEnd k c t).len = t.len ∧ (fatalEnd k c t).buf = t.buf ∧
    (fatalEnd k c t).scan = t.scan ∧ (fatalEnd k c t).si = t.si ∧ (fatalEnd k c t).siValid = t.siValid ∧
    (fatalEnd k c t).undefRead = t.undefRead ∧ (fatalEnd k c t).sub = t.sub ∧ (fatalEnd k c t).inbox = t.inbox ∧
    (fatalEnd k c t).hostData = t.hostData := by
  simp only [fatalEnd, restoreSnapshot_of_snapOf h]
  split_ifs
  all_goals first
    | exact ⟨rfl, rfl, rfl, rfl, rfl, rfl, rfl, rfl, rfl, rfl⟩
    | (rw [undefine_keeps]; exact ⟨rfl, rfl, rfl, rfl, rfl, rfl, rfl, rfl, rfl, rfl⟩)

/-- A part that only moves the cursor keeps the snapshot. -/
theorem CursorOnly.snapOf {s t : State} (h : CursorOnly (beginCommand s) t) : SnapOf s t := by
  rw [SnapOf, h]; rfl

theorem NoteOnly.snapOf {s t : State} (h : NoteOnly (beginCommand s) t) : SnapOf s t := by
  rw [SnapOf, h]; rfl

theorem SamplesOnly.snapOf {s t : State} (h : SamplesOnly (beginCommand s) t) : SnapOf s t := by
  rw [SnapOf, h]; rfl

theorem ResidualsOnly.snapOf {s t : State} (h : ResidualsOnly (beginCommand s) t) : SnapOf s t := by
  rw [SnapOf, h]; rfl

theorem SubframeOnly.snapOf {s t : State} (h : SubframeOnly (beginCommand s) t) : SnapOf s t := by
  rw [SnapOf, h]; rfl

theorem HeaderOnly.snapOf {s t : State} (h : HeaderOnly (beginCommand s) t) : SnapOf s t := by
  rw [SnapOf, h]; rfl

theorem FooterOnly.snapOf {s t : State} (h : FooterOnly (beginCommand s) t) : SnapOf s t := by
  rw [SnapOf, h]; rfl

/-- A command that only moved the cursor and then raised leaves nothing but CODE and STICKY changed (R302, R303). -/
theorem runCommand_plain_raised {body : Cmd Code} {c : Code} {s t : State}
    (h : body (beginCommand s) = .raised c t) (hk : CursorOnly (beginCommand s) t) :
    runCommand .plain body s = .next (failed c s) := by
  rw [runCommand_of_raised h]
  have : fatalEnd .plain c t = setSticky true (setCode c (restoreSnapshot t)) := by
    unfold fatalEnd; split <;> rfl
  rw [this, restoreSnapshot_of_snapOf hk.snapOf, hk]
  rfl

/-- A command that raised IllegalCommand having only read leaves nothing but CODE and STICKY changed (R302). -/
theorem runCommand_illegal {k : CommandKind} {body : Cmd Code} {s : State}
    (h : body (beginCommand s) = .raised .illegalCommand (beginCommand s)) :
    runCommand k body s = .next (failed .illegalCommand s) := by
  rw [runCommand_of_raised h, fatalEnd, if_pos rfl, restoreSnapshot_of_snapOf (snapOf_beginCommand s)]
  rfl

/-- An operand outside its range ends the command as IllegalCommand before anything else (R101). -/
theorem runCommand_operandCheck {k : CommandKind} {p : Prop} [Decidable p] {rest : Cmd Code} {s : State} (h : ¬ p) :
    runCommand k ((operandCheck p).andThen rest) s = .next (failed .illegalCommand s) :=
  runCommand_illegal (by rw [operandCheck, require_of_not h]; rfl)

/-- A refused command word (R101). -/
theorem illegalWord_eq (s : State) : illegalWord s = .next (failed .illegalCommand s) := runCommand_illegal rfl

/-! The next step. -/

/-- What `fetch` finds: the header of a waiting SUBF, nothing, a command word, or another access of the host. -/
theorem fetch_cases (s : State) :
    (∃ o, s.sub = some o ∧ fetch s = fetchHeader o s) ∨
    (s.sub = none ∧ s.inbox = [] ∧ fetch s = .served (.next s)) ∨
    (∃ v rest, s.sub = none ∧ s.inbox = .writeRegister 0x00 v :: rest ∧ fetch s = issue v { s with inbox := rest }) ∨
    (∃ a rest, s.sub = none ∧ s.inbox = a :: rest ∧ (∀ v, a ≠ .writeRegister 0x00 v) ∧
      fetch s = .served (hostAccess a { s with inbox := rest })) := by
  unfold fetch
  split
  · rename_i o h; exact .inl ⟨o, h, rfl⟩
  · rename_i h
    split
    · rename_i e; exact .inr (.inl ⟨h, e, rfl⟩)
    · rename_i v rest e; exact .inr (.inr (.inl ⟨v, rest, h, e, rfl⟩))
    · rename_i a rest hne e
      exact .inr (.inr (.inr ⟨a, rest, h, e, fun v hv => hne v hv, rfl⟩))

/-- A waiting SUBF runs its header, or itself where there is none. -/
theorem fetchHeader_cases (o : SubframeOperands) (s : State) :
    (∃ b i, headerAtCursor s = some b ∧ decodeSubframeHeader b = .ok i ∧ fetchHeader o s = .run i s) ∨
    fetchHeader o s = .run (.subf o.channel o.bps) { s with sub := none } := by
  unfold fetchHeader
  cases h : headerAtCursor s with
  | none => exact .inr rfl
  | some b =>
    cases e : decodeSubframeHeader b with
    | ok i => exact .inl ⟨b, i, rfl, e, by simp [e]⟩
    | error d => exact .inr (by simp [e])

/-- A command word is decoded and run, or refused as IllegalCommand. -/
theorem issue_cases (v : Word) (s : State) :
    (∃ i, v.toNat < 2 ^ 32 ∧ decodeCommand (v.setWidth 32) = .ok i ∧ issue v s = .run i s) ∨
    issue v s = .served (illegalWord s) := by
  unfold issue
  split
  · rename_i h
    cases e : decodeCommand (v.setWidth 32) with
    | ok i => exact .inl ⟨i, h, rfl, rfl⟩
    | error d => exact .inr rfl
  · exact .inr rfl

end Sys2Proof.Machine
end

