-- ==== Sys2Proof/Laws/PerInstr.lean ====
section
/-! SUPPORT. The per-instruction family Format: which of the two formats of the opcode table an instruction has. -/

namespace Sys2Proof.Laws.Format

/-- A command has a command word and an assembler line (30_encoding.md R100, R105); a subframe header has a byte whose
padding bit is 0 and no assembler line, and every value of its fields is legal (R130). -/
def Statement (i : Instr) : Prop :=
  match encode i with
  | .command _ => (assemblerLine i).isSome = true
  | .subframeHeader b => b.getLsbD 7 = false ∧ assemblerLine i = none ∧ i.wellFormed = true

theorem rdb (n : Byte) : Statement (.rdb n) := rfl
theorem rds (n : Byte) : Statement (.rds n) := rfl
theorem rdu : Statement (.rdu) := rfl
theorem rdr (k : Byte) : Statement (.rdr k) := rfl
theorem aln : Statement (.aln) := rfl
theorem gc8 : Statement (.gc8) := rfl
theorem gc16 : Statement (.gc16) := rfl
theorem crcr : Statement (.crcr) := rfl
theorem fixp (order c w : Byte) : Statement (.fixp order c w) := rfl
theorem lpcp (order c w : Byte) : Statement (.lpcp order c w) := rfl
theorem resd (order : Byte) : Statement (.resd order) := rfl
theorem subf (c bps : Byte) : Statement (.subf c bps) := rfl
theorem decor (a bps : Byte) : Statement (.decor a bps) := rfl
theorem fhdr : Statement (.fhdr) := rfl
theorem fftr : Statement (.fftr) := rfl
theorem frame : Statement (.frame) := rfl
theorem sfConstant (wasted : Bool) : Statement (.sfConstant wasted) := by cases wasted <;> exact ⟨rfl, rfl, rfl⟩
theorem sfVerbatim (wasted : Bool) : Statement (.sfVerbatim wasted) := by cases wasted <;> exact ⟨rfl, rfl, rfl⟩
theorem sfFixed0 (wasted : Bool) : Statement (.sfFixed0 wasted) := by cases wasted <;> exact ⟨rfl, rfl, rfl⟩
theorem sfFixed1 (wasted : Bool) : Statement (.sfFixed1 wasted) := by cases wasted <;> exact ⟨rfl, rfl, rfl⟩
theorem sfFixed2 (wasted : Bool) : Statement (.sfFixed2 wasted) := by cases wasted <;> exact ⟨rfl, rfl, rfl⟩
theorem sfFixed3 (wasted : Bool) : Statement (.sfFixed3 wasted) := by cases wasted <;> exact ⟨rfl, rfl, rfl⟩
theorem sfFixed4 (wasted : Bool) : Statement (.sfFixed4 wasted) := by cases wasted <;> exact ⟨rfl, rfl, rfl⟩
theorem sfLpc (orderMinus1 : BitVec 5) (wasted : Bool) : Statement (.sfLpc orderMinus1 wasted) := by
  refine ⟨?_, rfl, rfl⟩
  revert orderMinus1 wasted; decide

end Sys2Proof.Laws.Format
end

