-- ==== Sys2Proof/Tests/Slice0.lean ====
section
/-! SUPPORT. Tests: ill-formed instructions, hand-written words, single steps from 95_test_vectors.md (V<n>.<m>, and the
programs P1 to P6), and one witness for the hypotheses of each statement. Every expected value is the spec's. -/

namespace Sys2Proof.Tests

open Sys2Proof Sys2Proof.Machine

-- Kernel evaluations one after another: in parallel they ask for more threads than the memory limit allows.
set_option Elab.async false

/-! Helpers. -/

/-- BUF holding these bytes from address 0. -/
def bufOf (bytes : List Nat) : Memory := (List.range bytes.length).zip (bytes.map (BitVec.ofNat 8))

/-- After reset, with these bytes loaded and the cursor at bit position p. -/
def loaded (bytes : List Nat) (p : Nat := 0) : State :=
  { State.reset with buf := bufOf bytes, len := BitVec.ofNat 64 bytes.length, pos := BitVec.ofNat 65 p }

/-- NBLK written by the host. -/
def block (n : Nat) (s : State) : State :=
  { s with fh := { s.fh with blockSize := BitVec.ofNat 17 n }, undef := clearMark 0x21 s.undef }

/-- Residuals written by the host. -/
def residuals (vs : List Int) (s : State) : State := { s with res := cellsSet s.res 0 (vs.map wordOfInt) }

/-- Samples of channel c written by the host. -/
def samples (c : Nat) (vs : List Int) (s : State) : State :=
  { s with smp := cellsSet s.smp (smpAddress c 0) (vs.map wordOfInt) }

/-- QLP[0..] and SF_SHIFT written by the host. -/
def lpc (qs : List Int) (shift : BitVec 5) (s : State) : State :=
  setShift shift ((qs.zipIdx).foldl (fun t q => setQlp q.2 (BitVec.ofInt 16 q.1) t) s)

/-- StreamInfo SI16 of 95_test_vectors.md. -/
def si16 (s : State) : State :=
  { s with
    si := { rate := 44100, channels := 2, bps := 16, total := 0, minBlock := 0, maxBlock := 4096, minFrame := 0, maxFrame := 0 }
    siValid := true, undef := s.undef &&& ~~~(markRange 0x10 8) }

/-- A SUBF of channel 0 at depth bps waits for its header. -/
def waiting (bps : Nat) (s : State) : State := { s with sub := some { channel := 0, bps := BitVec.ofNat 8 bps } }

/-- The host's next access. -/
def asked (a : HostAccess) (s : State) : State := { s with inbox := [a] }

/-- What f sees in the next state, if there is one. -/
def get {α : Type} (o : Host.Outcome State Fault Refusal) (f : State → α) : Option α :=
  match o with
  | .next t => some (f t)
  | .fault _ => none
  | .refused _ => none

/-- The fault, if there is one. -/
def faultOf (o : Host.Outcome State Fault Refusal) : Option Fault :=
  match o with
  | .next _ => none
  | .fault f => some f
  | .refused _ => none

/-- The next state. -/
def nextOf (o : Host.Outcome State Fault Refusal) : State := (get o id).getD State.reset

theorem eq_next {o : Host.Outcome State Fault Refusal} (h : (get o id).isSome = true) : o = .next (nextOf o) := by
  cases o <;> simp_all [get, nextOf]

theorem exists_next {o : Host.Outcome State Fault Refusal} (p : State → Prop) [DecidablePred p]
    (h : get o (fun t => decide (p t)) = some true) : ∃ t, o = .next t ∧ p t := by
  cases o <;> simp_all [get]

/-- CODE, RESULT, POS, CRC8, CRC16. -/
def cursorOf (t : State) : Code × Int × Nat × Nat × Nat :=
  (t.code, t.result.toInt, t.pos.toNat, t.crc8.toNat, t.crc16.toNat)

/-- CODE and the first n samples of channel c. -/
def samplesOf (c n : Nat) (t : State) : Code × List (Option Int) :=
  (t.code, (List.range n).map fun i => (cellGet t.smp (smpAddress c i)).map BitVec.toInt)

/-- CODE, POS and the first n residuals. -/
def residualsOf (n : Nat) (t : State) : Code × Nat × List (Option Int) :=
  (t.code, t.pos.toNat, (List.range n).map fun i => (cellGet t.res i).map BitVec.toInt)

/-- The frame of program P3. -/
def frameP3 : List Nat :=
  [0xFF, 0xF8, 0x69, 0xA8, 0x00, 0x03, 0x5C, 0x12, 0x00, 0xFA, 0x00, 0x00, 0x90, 0x17, 0x70, 0x00, 0x00, 0x72, 0x04]

/-- The frame of program P5: byte 8 is 01. -/
def frameP5 : List Nat :=
  [0xFF, 0xF8, 0x69, 0xA8, 0x00, 0x03, 0x5C, 0x12, 0x01, 0xFA, 0x00, 0x00, 0x90, 0x17, 0x70, 0x00, 0x00, 0x72, 0x04]

/-! WellFormed: each range of 30_encoding.md R102, one step outside it. -/

theorem test_illformed_cursor :
    (Instr.rdb 65).wellFormed = false ∧ (Instr.rds 65).wellFormed = false ∧ (Instr.rdr 31).wellFormed = false := by decide

theorem test_illformed_predictors :
    (Instr.fixp 5 0 1).wellFormed = false ∧ (Instr.fixp 0 8 1).wellFormed = false ∧
    (Instr.fixp 0 0 0).wellFormed = false ∧ (Instr.fixp 0 0 34).wellFormed = false ∧
    (Instr.lpcp 0 0 1).wellFormed = false ∧ (Instr.lpcp 33 0 1).wellFormed = false ∧
    (Instr.lpcp 1 8 1).wellFormed = false ∧ (Instr.lpcp 1 0 0).wellFormed = false ∧
    (Instr.lpcp 1 0 34).wellFormed = false := by decide

theorem test_illformed_others :
    (Instr.resd 33).wellFormed = false ∧ (Instr.subf 8 1).wellFormed = false ∧ (Instr.subf 0 0).wellFormed = false ∧
    (Instr.subf 0 34).wellFormed = false ∧ (Instr.decor 11 1).wellFormed = false ∧
    (Instr.decor 0 0).wellFormed = false ∧ (Instr.decor 0 33).wellFormed = false := by decide

/-! Decoding: words written out from R102 (the words of P1 to P3 among them) and bytes from R130. -/

theorem test_decode_cursor :
    decodeCommand 0x00000401#32 = .ok (.rdb 4) ∧ decodeCommand 0x00004002#32 = .ok (.rds 64) ∧
    decodeCommand 0x00000003#32 = .ok .rdu ∧ decodeCommand 0x00000204#32 = .ok (.rdr 2) ∧
    decodeCommand 0x00000005#32 = .ok .aln ∧ decodeCommand 0x00000006#32 = .ok .gc8 ∧
    decodeCommand 0x00000007#32 = .ok .gc16 ∧ decodeCommand 0x00000008#32 = .ok .crcr := by decide

theorem test_decode_units :
    decodeCommand 0x10000210#32 = .ok (.fixp 2 0 16) ∧ decodeCommand 0x11030811#32 = .ok (.lpcp 8 3 17) ∧
    decodeCommand 0x00000218#32 = .ok (.resd 2) ∧ decodeCommand 0x00110120#32 = .ok (.subf 1 17) ∧
    decodeCommand 0x00100A28#32 = .ok (.decor 10 16) ∧ decodeCommand 0x00000030#32 = .ok .fhdr ∧
    decodeCommand 0x00000031#32 = .ok .fftr ∧ decodeCommand 0x00000032#32 = .ok .frame := by decide

theorem test_decode_headers :
    decodeSubframeHeader 0x00#8 = .ok (.sfConstant false) ∧ decodeSubframeHeader 0x03#8 = .ok (.sfVerbatim true) ∧
    decodeSubframeHeader 0x10#8 = .ok (.sfFixed0 false) ∧ decodeSubframeHeader 0x12#8 = .ok (.sfFixed1 false) ∧
    decodeSubframeHeader 0x14#8 = .ok (.sfFixed2 false) ∧ decodeSubframeHeader 0x17#8 = .ok (.sfFixed3 true) ∧
    decodeSubframeHeader 0x18#8 = .ok (.sfFixed4 false) ∧ decodeSubframeHeader 0x42#8 = .ok (.sfLpc 1 false) ∧
    decodeSubframeHeader 0x7F#8 = .ok (.sfLpc 31 true) := by decide

/-- R103, R101, R130: a zero word, an unassigned opcode, a non-zero unused field, a padding bit, reserved types. -/
theorem test_decode_refuses :
    decodeCommand 0x00000000#32 = .error .reservedOpcode ∧ decodeCommand 0x00000033#32 = .error .reservedOpcode ∧
    decodeCommand 0x00010401#32 = .error .unusedField ∧ decodeCommand 0x01000032#32 = .error .unusedField ∧
    decodeSubframeHeader 0x80#8 = .error .paddingBit ∧ decodeSubframeHeader 0x04#8 = .error .reservedType ∧
    decodeSubframeHeader 0x1A#8 = .error .reservedType ∧ decodeSubframeHeader 0x3E#8 = .error .reservedType := by decide

/-- R105: the lines of the assembler. -/
theorem test_assembler_lines :
    assemblerLine (.rdb 14) = some "RDB 14" ∧ assemblerLine (.fixp 2 0 16) = some "FIXP 2, 0, 16" ∧
    assemblerLine (.decor 10 16) = some "DECOR 10, 16" := by decide +kernel

/-- R106: SKIP 130 is two RDB 64 and one RDB 2. -/
theorem test_skip : pseudoSkip 130 = [.rdb 64, .rdb 64, .rdb 2] ∧ pseudoSkip 64 = [.rdb 64] := by decide

/-! The CRC engines and the Bit Cursor (V41). -/

/-- V41.20: the check values of "123456789". -/
theorem test_crc_check_values :
    ([0x31, 0x32, 0x33, 0x34, 0x35, 0x36, 0x37, 0x38, 0x39].map (BitVec.ofNat 8)).foldl crc8Byte 0 = 0xF4#8 ∧
    ([0x31, 0x32, 0x33, 0x34, 0x35, 0x36, 0x37, 0x38, 0x39].map (BitVec.ofNat 8)).foldl crc16Byte 0 = 0xFEE8#16 := by
  decide +kernel

theorem test_rdb_16 : -- V41.5
    get (exec (.rdb 16) (loaded [0xA5, 0x3C])) cursorOf = some (.ok, 42300, 16, 0xED, 0xDE82) := by decide +kernel

theorem test_rdb_64 : -- V41.7: all ones, the same 64 bits as -1
    get (exec (.rdb 64) (loaded [255, 255, 255, 255, 255, 255, 255, 255])) cursorOf =
      some (.ok, -1, 64, 0xD7, 0x8221) := by decide +kernel

theorem test_rds_64 : -- V41.13
    get (exec (.rds 64) (loaded [0x80, 0, 0, 0, 0, 0, 0, 0])) cursorOf =
      some (.ok, -9223372036854775808, 64, 0xBF, 0x8333) := by decide +kernel

theorem test_rdu_crosses_byte : -- V41.17
    get (exec .rdu (loaded [0xFF, 0xFE])) cursorOf = some (.ok, 15, 16, 0x23, 0x0008) := by decide +kernel

theorem test_rdu_no_stop : -- V41.18
    get (exec .rdu (loaded [0xFF, 0xFF])) cursorOf = some (.malformedStream, 0, 0, 0, 0) := by decide +kernel

theorem test_rdr_30 : -- V41.28
    get (exec (.rdr 30) (loaded [0x7F, 0xFF, 0xFF, 0xFF])) (fun t => (t.code, t.result.toInt, t.pos.toNat)) =
      some (.ok, -536870912, 31) := by decide +kernel

theorem test_rdr_cut_remainder : -- V41.29
    get (exec (.rdr 5) (loaded [0xE0])) cursorOf = some (.outOfData, 0, 0, 0, 0) := by decide +kernel

theorem test_aln : -- V41.31, after RDB 3
    get (exec .aln (loaded [0xA5, 0x3C] 3)) cursorOf = some (.ok, 0, 8, 0x72, 0x03DE) := by decide +kernel

theorem test_gc8 : -- P1 step 5
    get (exec .gc8 { loaded [0xA5, 0x3C] 12 with crc8 := 0x72, crc16 := 0x03DE }) cursorOf =
      some (.ok, 0x72, 12, 0x72, 0x03DE) := by decide +kernel

theorem test_gc16 : -- P1 step 7
    get (exec .gc16 { loaded [0xA5, 0x3C] 16 with crc8 := 0xED, crc16 := 0xDE82 }) cursorOf =
      some (.ok, 0xDE82, 16, 0xED, 0xDE82) := by decide +kernel

theorem test_crcr : -- P1 step 9
    get (exec .crcr { loaded [0xA5, 0x3C] 16 with crc8 := 0xED, crc16 := 0xDE82 }) cursorOf =
      some (.ok, 0, 16, 0, 0) := by decide +kernel

/-! The Predictor Engine (V42). -/

theorem test_fixp_4 : -- V42.4
    get (exec (.fixp 4 0 16) (residuals [0, 0] (samples 0 [0, 1, 8, 27] (block 6 State.reset)))) (samplesOf 0 6) =
      some (.ok, [some 0, some 1, some 8, some 27, some 64, some 125]) := by decide +kernel

theorem test_fixp_outside_width : -- V42.5
    get (exec (.fixp 2 0 16) (residuals [1] (samples 0 [32767, 32767] (block 3 State.reset)))) (samplesOf 0 3) =
      some (.malformedStream, [some 32767, some 32767, none]) := by decide +kernel

theorem test_lpcp_floor : -- V42.7
    get (exec (.lpcp 2 0 16) (lpc [-3, 2] 2 (residuals [0, 0] (samples 0 [7, -5] (block 4 State.reset))))) (samplesOf 0 4) =
      some (.ok, [some 7, some (-5), some 7, some (-8)]) := by decide +kernel

theorem test_lpcp_negative_shift : -- V42.11
    get (exec (.lpcp 1 0 16) (lpc [1] 0x1F (residuals [0] (samples 0 [0] (block 2 State.reset))))) (samplesOf 0 2) =
      some (.malformedStream, [some 0, none]) := by decide +kernel

/-! The Residual Decoder (V43). -/

theorem test_resd_rice_and_escape : -- V43.1
    get (exec (.resd 2) (block 8 (loaded [0x04, 0x79, 0x7C, 0x8F, 0x01, 0xE0]))) (residualsOf 6) =
      some (.ok, 43, [some 3, some (-2), some 7, some (-8), some 0, some (-1)]) := by decide +kernel

theorem test_resd_method_1 : -- V43.4
    get (exec (.resd 0) (block 2 (loaded [0x47, 0xC0, 0x00, 0x00, 0x02, 0xBE, 0x38]))) (residualsOf 2) =
      some (.ok, 55, [some 5, some (-4)]) := by decide +kernel

/-! The Subframe Decoder (V44). -/

theorem test_subf_lpc : -- V44.5
    get (exec (.subf 0 8) (block 4 (loaded [0x42, 0xFD, 0xFC, 0x20, 0x92, 0x00, 0x30])))
      (fun t => (samplesOf 0 4 t, [t.pos.toNat, t.sf.type.toNat, t.sf.prec.toNat], [t.sf.shift.toInt, qlpOf t 0, qlpOf t 1])) =
      some ((.ok, [some (-3), some (-4), some (-4), some (-3)]), [53, 33, 3], [1, 1, 1]) := by decide +kernel

theorem test_subf_wasted_too_many : -- V44.9
    get (exec (.subf 0 8) (block 1 (loaded [0x01, 0xFE, 0x00]))) (samplesOf 0 1) =
      some (.malformedStream, [none]) := by decide +kernel

theorem test_sfConstant : -- V44.10
    get (exec (.sfConstant true) (waiting 8 (block 2 (loaded [0x01, 0xFD])))) (samplesOf 0 2) =
      some (.ok, [some (-128), some (-128)]) := by decide +kernel

theorem test_sfVerbatim : -- V44.2
    get (exec (.sfVerbatim true) (waiting 8 (block 3 (loaded [0x03, 0x85, 0xF5, 0xF0])))) (samplesOf 0 3) =
      some (.ok, [some 20, some (-12), some 124]) := by decide +kernel

theorem test_sfFixed0 : -- V44.14
    get (exec (.sfFixed0 false) (waiting 8 (block 3 (loaded [0x10, 0x00, 0xAA, 0xC0])))) (samplesOf 0 3) =
      some (.ok, [some 3, some (-4), some 0]) := by decide +kernel

theorem test_sfFixed1 : -- V44.18: 128 does not fit 8 bits
    get (exec (.sfFixed1 false) (waiting 8 (block 2 (loaded [0x12, 0x7F, 0x00, 0x30])))) (samplesOf 0 2) =
      some (.malformedStream, [none, none]) := by decide +kernel

theorem test_sfFixed2 : -- V44.4
    get (exec (.sfFixed2 false) (waiting 16 (block 5 (loaded [0x14, 0x00, 0x0A, 0x00, 0x0D, 0x00, 0x65, 0x00]))))
      (samplesOf 0 5) = some (.ok, [some 10, some 13, some 17, some 19, some 21]) := by decide +kernel

theorem test_sfFixed3 : -- V42.3 as a subframe of 8 bits: warm-up 1, 4, 9, residuals 0, 0 (method 0, order 0, k = 0)
    get (exec (.sfFixed3 false) (waiting 8 (block 5 (loaded [0x16, 0x01, 0x04, 0x09, 0x00, 0x00])))) (samplesOf 0 5) =
      some (.ok, [some 1, some 4, some 9, some 16, some 25]) := by decide +kernel

theorem test_sfFixed4 : -- V44.11: order 4 above NBLK 3
    get (exec (.sfFixed4 false) (waiting 16 (block 3 (loaded [0x18, 0x00, 0x00])))) (samplesOf 0 3) =
      some (.malformedStream, [none, none, none]) := by decide +kernel

theorem test_sfLpc : -- V44.5
    get (exec (.sfLpc 1 false) (waiting 8 (block 4 (loaded [0x42, 0xFD, 0xFC, 0x20, 0x92, 0x00, 0x30])))) (samplesOf 0 4) =
      some (.ok, [some (-3), some (-4), some (-4), some (-3)]) := by decide +kernel

/-! The Channel Decorrelator (V45). -/

theorem test_decor_mid_side : -- V45.5
    get (exec (.decor 10 32) (samples 1 [-4294967295] (samples 0 [-1] (block 1 State.reset))))
      (fun t => (samplesOf 0 1 t, samplesOf 1 1 t)) =
      some ((.ok, [some (-2147483648)]), (.ok, [some 2147483647])) := by decide +kernel

theorem test_decor_outside : -- V45.11
    get (exec (.decor 9 16) (samples 1 [-32768] (samples 0 [-1] (block 1 State.reset))))
      (fun t => (samplesOf 0 1 t, samplesOf 1 1 t)) =
      some ((.malformedStream, [none]), (.malformedStream, [none])) := by decide +kernel

/-! The Frame Decoder (V46, P3, P5). -/

theorem test_fhdr_two_byte_number : -- V46.16
    get (exec .fhdr (si16 (loaded [0xFF, 0xF8, 0x69, 0xA8, 0xC4, 0xAC, 0x03, 0x67])))
      (fun t => (t.code, [t.pos.toNat, t.fh.number.toNat, t.fh.blockSize.toNat, t.fh.rate.toNat, t.fh.crc8.toNat, t.crc16.toNat])) =
      some (.ok, [64, 300, 4, 44100, 0x67, 0]) := by decide +kernel

theorem test_fhdr_scan : -- V46.6
    get (exec .fhdr { si16 (loaded [0xFE, 0xF8, 0x69, 0xA8, 0x00, 0x03, 0x5C]) with scan := true }) cursorOf =
      some (.resync, 0, 0, 0, 0) := by decide +kernel

theorem test_fftr_padding : -- V46.30
    get (exec .fftr (loaded [0xA0, 0x03, 0xC0] 3)) (fun t => (t.code, t.valid, t.pos.toNat)) =
      some (.ok, true, 24) := by decide +kernel

theorem test_fftr_cut : -- V46.31
    get (exec .fftr { loaded [0xA0, 0x12] 3 with valid := true }) (fun t => (t.code, t.valid, t.pos.toNat)) =
      some (.outOfData, false, 3) := by decide +kernel

theorem test_frame_P3 :
    get (exec .frame (si16 (loaded frameP3)))
      (fun t => ([samplesOf 0 4 t, samplesOf 1 4 t], t.valid, [t.pos.toNat, t.crc8.toNat, t.crc16.toNat, t.sf.type.toNat])) =
      some ([(.ok, [some 1000, some 1000, some 1000, some 1000]), (.ok, [some (-500), some (-500), some (-500), some (-500)])],
        true, [152, 0x81, 0, 9]) := by decide +kernel

theorem test_frame_P5 :
    get (exec .frame (si16 (loaded frameP5)))
      (fun t => ([samplesOf 0 4 t, samplesOf 1 4 t], [t.valid, t.sticky], [t.pos.toNat, t.crc8.toNat, t.crc16.toNat])) =
      some ([(.integrityError, [some 1256, some 1256, some 1256, some 1256]),
        (.integrityError, [some (-244), some (-244), some (-244), some (-244)])],
        [false, false], [152, 0x9E, 0x9543]) := by decide +kernel

/-! The step and the host. -/

/-- P1 step 1: the host writes 0x00000401 to CMD. -/
theorem test_step_command :
    get (step (asked (.writeRegister 0x00 0x401) (loaded [0xA5, 0x3C]))) (fun t => (cursorOf t, t.inbox)) =
      some ((.ok, 10, 4, 0, 0), []) := by decide +kernel

/-- R38: bits above 31 make the command IllegalCommand. -/
theorem test_step_wide_command :
    get (step (asked (.writeRegister 0x00 0x100000401) (loaded [0xA5, 0x3C]))) (fun t => (cursorOf t, t.sticky)) =
      some ((.illegalCommand, 0, 0, 0, 0), true) := by decide +kernel

/-- R36: STATUS reads CODE, VALID and STICKY; a write of bit 16 clears STICKY only. -/
theorem test_status :
    registerRead { State.reset with code := .integrityError, valid := true, sticky := true } 0x01 = some 0x10104 ∧
    get (step (asked (.writeRegister 0x01 0x10107) { State.reset with valid := true, sticky := true }))
      (fun t => (t.sticky, t.valid, t.code)) = some (false, true, .ok) := by decide +kernel

/-- R303: after a SUBF that failed LPCP does not compute with the SF_SHIFT and the QLP it left UNDEF, but does with values the
host has written since. -/
theorem test_undef_registers :
    let s := residuals [0] (samples 0 [0] (block 2 (undefSubframeRegs State.reset)))
    faultOf (exec (.lpcp 1 0 16) s) = some .undefRegister ∧
    faultOf (exec (.lpcp 1 0 16) (setShift 0 s)) = some .undefRegister ∧
    get (exec (.lpcp 1 0 16) (lpc [1] 0 s)) (samplesOf 0 2) = some (.ok, [some 0, some 0]) := by decide +kernel

/-- R316: LPCP reads the SF_SHIFT and QLP of reset, and the model fault is recorded; over written ones none is. -/
theorem test_unwritten_registers :
    let s := residuals [5] (samples 0 [0] (block 2 State.reset))
    get (exec (.lpcp 1 0 16) s) (fun t => (samplesOf 0 2 t, t.undefRead)) = some ((.ok, [some 0, some 5]), true) ∧
    get (exec (.lpcp 1 0 16) (lpc [1] 0 s)) (fun t => t.undefRead) = some false := by decide +kernel

/-- V43.10: a section cut inside a remainder; and one with no stop bit. -/
theorem test_resd_cut :
    get (exec (.resd 0) (block 4 (loaded [0x00, 0xC9, 0x00]))) (residualsOf 1) = some (.outOfData, 0, [none]) ∧
    get (exec (.resd 0) (block 4 (loaded [0x00, 0xFF]))) (residualsOf 1) = some (.malformedStream, 0, [none]) := by
  decide +kernel

/-- R11, R31: the cursor stands at 2^64 after the last bit of a full buffer of 2^61 bytes, and the next read is cut. -/
theorem test_last_bit :
    let s := { State.reset with buf := [(2 ^ 61 - 1, 0xA5#8)], len := BitVec.ofNat 64 (2 ^ 61), pos := BitVec.ofNat 65 (2 ^ 64 - 4) }
    get (exec (.rdb 4) s) (fun t => (t.code, t.result.toNat, t.pos.toNat)) = some (.ok, 5, 2 ^ 64) ∧
    get (exec (.rdb 5) s) (fun t => (t.code, t.pos.toNat)) = some (.outOfData, 2 ^ 64 - 4) := by decide +kernel

/-- R51, R43: SF_SHIFT written 0x1F reads back as -1. -/
theorem test_shift_sign_extended :
    get (step (asked (.writeRegister 0x34 0x1F) State.reset)) (fun t => registerRead t 0x34) =
      some (some 0xFFFFFFFFFFFFFFFF) := by decide +kernel

/-- The opcode table's words run as the first instruction after reset; a header's SUBF reads the NBLK of reset, 0
(R42, log 4). -/
theorem test_fetch_words :
    decodeTableWord 32 0x00000001 = some (.rdb 0) ∧ decodeTableWord 8 0x7E = some (.sfLpc 31 false) ∧
    get (step (State.reset.withFetchWord 32 0x00000008)) (fun t => t.code) = some .ok ∧
    get (step (State.reset.withFetchWord 8 0x10)) (fun t => (t.code, t.undefRead)) = some (.illegalCommand, true) := by
  decide +kernel

/-! Witnesses: for each statement with hypotheses, a state and operands that meet them all (per clause where it has
several). -/

theorem witness_ResetAccess : (asked .reset (loaded [1])).sub = none ∧ (asked .reset (loaded [1])).inbox = .reset :: [] := by
  decide

theorem witness_StepRunsIssuedCommand :
    (asked (.writeRegister 0x00 0x401) State.reset).sub = none ∧ (0x401 : Word).toNat < 2 ^ 32 ∧
    decode (.command ((0x401 : Word).setWidth 32)) = .ok (.rdb 4) := by decide

theorem witness_StepRunsWaitingHeader :
    (waiting 16 (loaded [0x14, 0x00])).sub = some ⟨0, 16⟩ ∧
    Stands (waiting 16 (loaded [0x14, 0x00])) (uintBits 8 (0x14#8).toNat) ∧
    decode (.subframeHeader 0x14#8) = .ok (.sfFixed2 false) := by decide +kernel

/-- A word with bits above 31, and a word that is all zero. -/
theorem witness_RefusedWord :
    State.reset.sub = none ∧ State.reset.snap = none ∧
    (¬ ∃ i : Instr, i.wellFormed = true ∧ encode i = .command ((0x100000401 : Word).setWidth 32) ∧
      (0x100000401 : Word).toNat < 2 ^ 32) ∧
    (¬ ∃ i : Instr, i.wellFormed = true ∧ encode i = .command ((0 : Word).setWidth 32) ∧ (0 : Word).toNat < 2 ^ 32) := by
  refine ⟨rfl, rfl, ?_, ?_⟩
  · rintro ⟨_, _, _, h⟩; exact absurd h (by decide)
  · rintro ⟨i, _, h, _⟩
    have bits : ∀ op a b c : Byte, packCommand op a b c = .command ((0 : Word).setWidth 32) → op = 0 := by
      intro op a b c h
      injection h with h
      refine BitVec.eq_of_getLsbD_eq fun j hj => ?_
      have := congrArg (fun w => w.getLsbD j) h
      have e : (c ++ b ++ a ++ op : BitVec (8 + 8 + 8 + 8)).getLsbD j = op.getLsbD j := by
        rw [BitVec.getLsbD_append, if_pos hj]
      exact e.symm.trans (this.trans (by simp))
    cases i <;> first | exact absurd (bits _ _ _ _ h) (by decide) | simp [encode, packSubframeHeader] at h

theorem witness_EncodeOfDecode :
    decode (.command 0x11030811#32) = .ok (.lpcp 8 3 17) ∧ decode (.subframeHeader 0x7F#8) = .ok (.sfLpc 31 true) := by decide

theorem witness_OutOfRangeOperand : (Instr.decor 11 16).wellFormed = false := by decide

theorem witness_Rdb :
    Bounded (loaded [0xA5, 0x3C]) ∧ Stands (loaded [0xA5, 0x3C]) (uintBits 4 10) ∧
    Stands (loaded [0xA5, 0x3C] 16) (uintBits 0 0) ∧
    Stands (loaded [255, 255, 255, 255, 255, 255, 255, 255]) (uintBits 64 (2 ^ 64 - 1)) ∧ 64 < (65#8).toNat ∧
    8 * (loaded [0xA5, 0x3C]).len.toNat < (loaded [0xA5, 0x3C]).pos.toNat + (17#8).toNat := by decide +kernel

theorem witness_Rds :
    Bounded (loaded [0xA5]) ∧ InRange (-6) 4 ∧ Stands (loaded [0xA5]) (sintBits 4 (-6)) ∧
    Stands (loaded [0xA5]) (sintBits 1 (-1)) ∧
    Stands (loaded [0x80, 0, 0, 0, 0, 0, 0, 0]) (sintBits 64 (-2 ^ 63)) ∧ InRange (-2 ^ 63) 64 ∧
    8 * (loaded [0xA5]).len.toNat < (loaded [0xA5]).pos.toNat + (9#8).toNat := by decide +kernel

theorem witness_Rdu :
    Bounded (loaded [0xE5]) ∧ Stands (loaded [0xE5]) (unaryBits false 3) ∧ Stands (loaded [0x00]) (unaryBits false 0) ∧
    bitsAt (loaded [0xFF, 0xFF]).buf 0 (List.replicate (8 * 2 - 0) true) = true ∧
    bitsAt (loaded []).buf 0 (List.replicate (8 * 0 - 0) true) = true := by decide +kernel

theorem witness_Rdr :
    FitsEntry (-5) ∧ Bounded (loaded [0xC8]) ∧ Stands (loaded [0xC8]) (riceBits false 2 (-5)) ∧
    Stands (loaded [0x7F, 0xFF, 0xFF, 0xFF]) (riceBits false 30 (-2 ^ 29)) ∧ 30 < (31#8).toNat ∧
    bitsAt (loaded [0xFF]).buf 0 (List.replicate (8 * 1 - 0) true) = true ∧
    Stands (loaded [0xE0]) (unaryBits false 3) ∧ 8 * (loaded [0xE0]).len.toNat < 0 + 3 + 1 + (5#8).toNat := by decide +kernel

/-- A buffer of 2^31 bytes FF and one byte 00: a unary code of 2^34, too large for a Rice code with k = 30 (R153). -/
def hugeUnary : State :=
  { State.reset with
    buf := (List.range (2 ^ 31 + 1)).map fun a => (a, if a < 2 ^ 31 then 0xFF#8 else 0#8)
    len := BitVec.ofNat 64 (2 ^ 31 + 1) }

theorem cellGet_map_range (f : Nat → Byte) (n x : Nat) :
    cellGet ((List.range n).map fun a => (a, f a)) x = if x < n then some (f x) else none := by
  induction n with
  | zero => simp [cellGet]
  | succ n ih =>
    rw [List.range_succ, List.map_append]
    have app : ∀ (m : Memory) (c : Nat × Byte),
        cellGet (m ++ [c]) x = (cellGet m x).or (if x = c.1 then some c.2 else none) := by
      intro m c
      induction m with
      | nil => simp [cellGet]
      | cons d m ihm =>
        simp only [List.cons_append, cellGet]
        split_ifs <;> simp_all
    rw [show List.map (fun a => (a, f a)) [n] = [(n, f n)] from rfl, app, ih]
    split_ifs <;> first | omega | simp_all

theorem bitsAt_replicate {m : Memory} {b : Bool} : ∀ {n p : Nat}, (∀ x, p ≤ x → x < p + n → BitIs m x b) →
    bitsAt m p (List.replicate n b) = true
  | 0, _, _ => rfl
  | n + 1, p, h => by
    rw [List.replicate_succ, bitsAt, Bool.and_eq_true, decide_eq_true_eq]
    exact ⟨h p le_rfl (by omega), bitsAt_replicate fun x h1 h2 => h x (by omega) (by omega)⟩

theorem witness_Rdr_overflow :
    Bounded hugeUnary ∧ 2 ^ (64 - (30#8).toNat) ≤ 2 ^ 34 ∧ Stands hugeUnary (unaryBits false (2 ^ 34)) := by
  have len : hugeUnary.len.toNat = 2 ^ 31 + 1 := rfl
  refine ⟨by rw [Bounded, len]; norm_num, by decide, ?_, ?_⟩
  · rw [length_unaryBits, len]; decide
  · rw [unaryBits, bitsAt_append, Bool.and_eq_true, List.length_replicate]
    constructor
    · refine bitsAt_replicate fun x h1 h2 => ?_
      have hx : x / 8 < 2 ^ 31 := by
        have : x < 2 ^ 34 := by simpa [hugeUnary, State.reset] using h2
        omega
      have hb : ∀ j, j < 8 → (0xFF#8).getLsbD j = true := by decide
      simp only [BitIs, hugeUnary, cellGet_map_range, if_pos hx, if_pos (show x / 8 < 2 ^ 31 + 1 by omega), Option.map_some]
      rw [hb _ (by omega)]; rfl
    · have pos : hugeUnary.pos.toNat = 0 := rfl
      simp only [bitsAt, Bool.and_true, decide_eq_true_eq, BitIs, pos]
      rw [hugeUnary, cellGet_map_range, show (0 + 2 ^ 34) / 8 = 2 ^ 31 by norm_num, if_pos (by norm_num), if_neg (by norm_num)]
      simp

theorem witness_Aln :
    (loaded [0xA5, 0x3C]).pos.toNat % 8 = 0 ∧ (loaded [0xA5, 0x3C] 3).pos.toNat % 8 ≠ 0 ∧ Bounded (loaded [0xA5, 0x3C] 3) ∧
    (loaded [0xA5, 0x3C] 15).pos.toNat ≤ 8 * (loaded [0xA5, 0x3C] 15).len.toNat ∧
    (cellGet (loaded [0xA5, 0x3C] 15).buf (15 / 8)).isSome = true := by decide +kernel

theorem witness_CursorCommandsFrame :
    isCursorCommand .gc8 = true ∧ (get (exec .gc8 (loaded [0xA5])) id).isSome = true ∧
    (get (exec .aln (loaded [0xA5] 3)) id).isSome = true ∧ (get (exec .crcr (loaded [])) id).isSome = true := by decide +kernel

theorem witness_CrcDetection : (0xA5#8 : Byte) ≠ 0xA4#8 := by decide

/-- V42.2. -/
theorem witness_Fixp :
    (Instr.fixp 1 0 16).wellFormed = true ∧ NblkReady (block 4 State.reset) ∧
    holdsAt (samples 0 [100] (block 4 State.reset)).smp (smpAddress 0 0) [100] = true ∧
    holdsAt (residuals [1, 1, -2] (block 4 State.reset)).res 0 [1, 1, -2] = true ∧
    (∀ r ∈ ([1, 1, -2] : List Int), FitsEntry r) ∧
    (∀ v ∈ rebuild (fixedCoefficients 1) 0 [100] [1, 1, -2], InRange v 16) ∧
    rebuild (fixedCoefficients 1) 0 [100] [1, 1, -2] = [100, 101, 102, 100] := by decide +kernel

/-- V42.10. -/
theorem witness_Lpcp :
    let s := lpc [1, 1] 1 (residuals [0, 1] (samples 0 [-3, -4] (block 4 State.reset)))
    (Instr.lpcp 2 0 16).wellFormed = true ∧ NblkReady s ∧
    RegistersDefined s (0x34 :: (List.range 2).map (0x40 + ·)) ∧ 0 ≤ s.sf.shift.toInt ∧
    holdsAt s.smp (smpAddress 0 0) [-3, -4] = true ∧ holdsAt s.res 0 [0, 1] = true ∧
    (∀ v ∈ rebuild (coefficientsOf s 2) s.sf.shift.toInt.toNat [-3, -4] [0, 1], InRange v 16) ∧
    rebuild (coefficientsOf s 2) s.sf.shift.toInt.toNat [-3, -4] [0, 1] = [-3, -4, -4, -3] := by decide +kernel

theorem witness_NblkOutOfRange :
    LeftUndef (block 0 State.reset) 0x21 = false ∧ nblkOf (block 0 State.reset) = 0 ∧
    (LeftUndef State.reset 0x21 = false ∧ nblkOf State.reset = 0) ∧
    65535 < nblkOf (block 65536 State.reset) ∧ (Instr.subf 0 16).wellFormed = true ∧
    isSubframeHeader (.sfLpc 0 false) = true ∧ (waiting 16 (block 65536 State.reset)).sub = some ⟨0, 16⟩ ∧
    (waiting 16 State.reset).sub = some ⟨0, 16⟩ ∧ (waiting 34 State.reset).sub = some ⟨0, 34⟩ ∧
    (Instr.subf 0 34).wellFormed = false := by decide +kernel

/-- V42.12, V42.13. -/
theorem witness_PredictorsRefuse :
    NblkReady (block 2 State.reset) ∧ (Instr.fixp 3 0 16).wellFormed = true ∧
    nblkOf (block 2 State.reset) < (3#8).toNat ∧ (Instr.fixp 1 0 8).wellFormed = true ∧
    holdsAt (samples 0 [200] (block 2 State.reset)).smp (smpAddress 0 0) [200] = true ∧
    (∀ v ∈ ([200] : List Int), FitsEntry v) ∧ (∃ v ∈ ([200] : List Int), ¬ InRange v 8) := by decide +kernel

/-- V42.5, and the same overflow through LPCP with coefficient 1. -/
theorem witness_SampleOutsideWidth :
    let s := residuals [1] (samples 0 [32767, 32767] (block 3 State.reset))
    let t := lpc [1] 0 (residuals [1] (samples 0 [32767] (block 2 State.reset)))
    (NblkReady s ∧ holdsAt s.smp (smpAddress 0 0) [32767, 32767] = true ∧ holdsAt s.res 0 [1] = true ∧
      (∃ v ∈ rebuild (fixedCoefficients 2) 0 [32767, 32767] [1], ¬ InRange v 16)) ∧
    (NblkReady t ∧ RegistersDefined t (0x34 :: (List.range 1).map (0x40 + ·)) ∧ t.sf.shift.toInt = (0 : Nat) ∧
      holdsAt t.smp (smpAddress 0 0) [32767] = true ∧ holdsAt t.res 0 [1] = true ∧
      (∃ v ∈ rebuild (coefficientsOf t 1) 0 [32767] [1], ¬ InRange v 16)) ∧
    (∀ v ∈ ([32767] : List Int), InRange v 16) ∧ (∀ r ∈ ([1] : List Int), FitsEntry r) := by decide +kernel

/-- V42.11. -/
theorem witness_NegativeShift :
    let s := lpc [1] 0x1F (samples 0 [0] (block 2 State.reset))
    (Instr.lpcp 1 0 16).wellFormed = true ∧ NblkReady s ∧ RegistersDefined s [0x34] ∧ s.sf.shift.toInt < 0 ∧
    (1#8).toNat ≤ nblkOf s ∧ holdsAt s.smp (smpAddress 0 0) [0] = true ∧ (∀ v ∈ ([0] : List Int), InRange v 16) := by
  decide +kernel

/-- V42.1. -/
theorem witness_FixpOrderZero :
    let s := residuals [5, -3, 0, 7] (block 4 State.reset)
    (Instr.fixp 0 0 16).wellFormed = true ∧ NblkReady s ∧ nblkOf s = 4 ∧ holdsAt s.res 0 [5, -3, 0, 7] = true ∧
    (∀ r ∈ ([5, -3, 0, 7] : List Int), InRange r 16) := by decide +kernel

/-- V42.1, and a state that differs in the cursor only; LPCP, and one that differs in the mark of SI_RATE. -/
theorem witness_PredictorsFrame :
    let s := residuals [5, -3, 0, 7] (block 4 State.reset)
    (get (exec (.fixp 0 0 16) s) id).isSome = true ∧ nblkOf { s with pos := 3 } = nblkOf s ∧
    (let u := lpc [1] 1 (residuals [0, 0, 0] (samples 0 [-3] (block 4 State.reset)))
     (get (exec (.lpcp 1 0 16) u) id).isSome = true ∧
     ∀ n, n < 128 → n = 0x21 ∨ n = 0x34 ∨ (0x40 ≤ n ∧ n ≤ 0x5F) →
      LeftUndef { u with undef := clearMark 0x10 u.undef } n = LeftUndef u n) := by
  decide +kernel

/-- The bound is met: 32 coefficients of -2^15 on samples of -2^32. -/
theorem witness_LpcSum :
    let window := List.replicate 32 (-2 ^ 32 : Int)
    let s := lpc (List.replicate 32 (-32768)) 0 (samples 0 window State.reset)
    RegistersDefined s ((List.range 32).map (0x40 + ·)) ∧ holdsAt s.smp (smpAddress 0 (32 - 32)) window = true ∧
    (∀ x ∈ window, InRange x 33) ∧ weigh (coefficientsOf s 32) window.reverse = 2 ^ 52 := by decide +kernel

/-- The section of V43.1. -/
def sectionV43_1 : SectionCode := ⟨0, 1, [.rice 1 [3, -2], .raw 4 [7, -8, 0, -1]]⟩

theorem witness_Resd :
    let s := block 8 (loaded [0x04, 0x79, 0x7C, 0x8F, 0x01, 0xE0])
    NblkReady s ∧ Bounded s ∧ sectionV43_1.legal (nblkOf s) 2 = true ∧ Stands s (sectionV43_1.bits false) := by decide +kernel

/-- V43.8 (method 2), method 3, V43.7 and V43.6. -/
theorem witness_ResdRejects :
    NblkReady (block 4 State.reset) ∧ Bounded (loaded [0x80, 0, 0]) ∧ Stands (loaded [0x80, 0, 0]) (uintBits 2 2) ∧
    Stands (loaded [0xC0, 0, 0]) (uintBits 2 3) ∧
    (Stands (loaded [0x08, 0, 0, 0]) (uintBits 2 0 ++ uintBits 4 2) ∧ nblkOf (block 6 State.reset) % 2 ^ 2 ≠ 0) ∧
    (Stands (loaded [0x04, 0]) (uintBits 2 0 ++ uintBits 4 1) ∧ nblkOf (block 4 State.reset) / 2 ^ 1 < (3#8).toNat) := by
  decide +kernel

/-- The remainder of a section's fourth residual (k = 3) runs past the end, as in V43.10; and a unary part with no stop
bit. -/
theorem witness_ResdRejects_cut :
    let x : SectionCode := ⟨0, 0, [.rice 3 [0, 1, 2, 3]]⟩
    let y : SectionCode := ⟨0, 0, [.rice 0 [-4]]⟩
    (x.legal 4 0 = true ∧ CutInside (loaded [0x00, 0xC0, 0x91]) (x.fields false) ((x.fields false).take 10)
      ⟨.fixed, uintBits 3 6⟩ 1 ∧ FieldKind.fixed.cutCode = .outOfData) ∧
    (y.legal 1 0 = true ∧ CutInside (loaded [0x00, 0x3F]) (y.fields false) ((y.fields false).take 3)
      ⟨.quotient 0, unaryBits false 7⟩ 6 ∧ (FieldKind.quotient 0).cutCode = .malformedStream) := by
  refine ⟨⟨by decide +kernel, ⟨by decide +kernel, by decide +kernel, by decide +kernel, by decide +kernel⟩, rfl⟩,
    by decide +kernel, ⟨by decide +kernel, by decide +kernel, by decide +kernel, by decide +kernel⟩, rfl⟩

/-- A section of one residual, method 1, with parameter 30. -/
def section30 : SectionCode := ⟨1, 0, [.rice 30 [0]]⟩

/-- A Fixed subframe of order 0 whose section has in place of its residual a unary code of 2^34 + 5, too large for a Rice code
with k = 30 (R153): the header byte, the start of the section, 2^31 bytes FF and one byte 00. -/
def hugeQuotient (pos : Nat) : State :=
  { block 1 State.reset with
    buf := (List.range (2 ^ 31 + 4)).map fun a =>
      (a, if a = 0 then 0x10#8 else if a = 1 then 0x43#8 else if a = 2 then 0xDF#8 else if a < 2 ^ 31 + 3 then 0xFF#8 else 0#8)
    len := BitVec.ofNat 64 (2 ^ 31 + 4)
    pos := BitVec.ofNat 65 pos }

theorem hugeQuotient_unary (pos : Nat) : bitsAt (hugeQuotient pos).buf 19 (unaryBits false (2 ^ 34 + 5)) = true := by
  rw [unaryBits, bitsAt_append, Bool.and_eq_true, List.length_replicate]
  constructor
  · refine bitsAt_replicate fun x h1 h2 => ?_
    have hff : ∀ j, j < 8 → (0xFF#8).getLsbD j = true := by decide
    have hdf : ∀ j, j < 5 → (0xDF#8).getLsbD j = true := by decide
    simp only [BitIs, hugeQuotient, cellGet_map_range, if_pos (show x / 8 < 2 ^ 31 + 4 by omega), Option.map_some,
      if_neg (show ¬ x / 8 = 0 by omega), if_neg (show ¬ x / 8 = 1 by omega), if_pos (show x / 8 < 2 ^ 31 + 3 by omega)]
    by_cases h : x / 8 = 2
    · rw [if_pos h, hdf _ (by omega)]; rfl
    · rw [if_neg h, hff _ (by omega)]; rfl
  · simp only [bitsAt, Bool.and_true, decide_eq_true_eq, BitIs, hugeQuotient, cellGet_map_range]
    rw [show (19 + (2 ^ 34 + 5)) / 8 = 2 ^ 31 + 3 by norm_num, if_pos (by norm_num), if_neg (by norm_num),
      if_neg (by norm_num), if_neg (by norm_num), if_neg (by norm_num)]
    simp

theorem witness_ResdRejects_quotient :
    section30.legal (nblkOf (hugeQuotient 8)) 0 = true ∧ Bounded (hugeQuotient 8) ∧
    QuotientTooLarge (hugeQuotient 8) (section30.fields false) ((section30.fields false).take 3)
      ⟨.quotient 30, unaryBits false 0⟩ := by
  have len : (hugeQuotient 8).len.toNat = 2 ^ 31 + 4 := rfl
  have pos : (hugeQuotient 8).pos.toNat = 8 := rfl
  have pre : fieldBits ((section30.fields false).take 3) =
    [false, true, false, false, false, false, true, true, true, true, false] := by decide
  refine ⟨by decide +kernel, by rw [Bounded, len]; norm_num, by decide +kernel, 30, 2 ^ 34 + 5, rfl, by norm_num, ?_, ?_⟩
  · rw [List.length_append, show (hugeQuotient 8).cfg.unaryStop = false from rfl, length_unaryBits, len, pos, pre]; decide
  · rw [show (hugeQuotient 8).cfg.unaryStop = false from rfl, bitsAt_append, pre, pos, Bool.and_eq_true]
    refine ⟨?_, hugeQuotient_unary 8⟩
    simp [bitsAt, BitIs, hugeQuotient, cellGet_map_range]

theorem witness_ResdFrame :
    (get (exec (.resd 2) (block 8 (loaded [0x04, 0x79, 0x7C, 0x8F, 0x01, 0xE0]))) id).isSome = true := by decide +kernel

/-- The subframes of V44.1, V44.2, V44.4 and V44.5. -/
def constantV44_1 : SubframeCode := ⟨0, .constant (-7)⟩
def verbatimV44_2 : SubframeCode := ⟨2, .verbatim [5, -3, 31]⟩
def fixedV44_4 : SubframeCode := ⟨0, .fixed [10, 13] ⟨0, 0, [.rice 1 [1, -2, 0]]⟩⟩
def lpcV44_5 : SubframeCode := ⟨0, .lpc [-3, -4] 3 1 [1, 1] ⟨0, 0, [.rice 0 [0, 1]]⟩⟩

theorem witness_Subframe_constant :
    let s := waiting 16 (block 4 (loaded [0x00, 0xFF, 0xF9]))
    NblkReady s ∧ Bounded s ∧ (Instr.subf 0 16).wellFormed = true ∧ 16 ≤ s.cfg.maxSubframeBps ∧
    constantV44_1.legal s.cfg.maxLpcOrder (nblkOf s) 16 = true ∧ Stands s (constantV44_1.bits false 16) ∧
    constantV44_1.header = .ok (.sfConstant false) ∧ constantV44_1.samples 4 = [-7, -7, -7, -7] := by decide +kernel

theorem witness_Subframe_verbatim :
    let s := waiting 8 (block 3 (loaded [0x03, 0x85, 0xF5, 0xF0]))
    NblkReady s ∧ Bounded s ∧ verbatimV44_2.legal s.cfg.maxLpcOrder (nblkOf s) 8 = true ∧
    Stands s (verbatimV44_2.bits false 8) ∧ verbatimV44_2.header = .ok (.sfVerbatim true) ∧
    verbatimV44_2.samples 3 = [20, -12, 124] := by decide +kernel

theorem witness_Subframe_fixed :
    let s := waiting 16 (block 5 (loaded [0x14, 0x00, 0x0A, 0x00, 0x0D, 0x00, 0x65, 0x00]))
    NblkReady s ∧ Bounded s ∧ fixedV44_4.legal s.cfg.maxLpcOrder (nblkOf s) 16 = true ∧
    Stands s (fixedV44_4.bits false 16) ∧ fixedV44_4.header = .ok (.sfFixed2 false) ∧
    fixedV44_4.samples 5 = [10, 13, 17, 19, 21] := by decide +kernel

theorem witness_Subframe_lpc :
    let s := waiting 8 (block 4 (loaded [0x42, 0xFD, 0xFC, 0x20, 0x92, 0x00, 0x30]))
    NblkReady s ∧ Bounded s ∧ lpcV44_5.legal s.cfg.maxLpcOrder (nblkOf s) 8 = true ∧
    Stands s (lpcV44_5.bits false 8) ∧ lpcV44_5.header = .ok (.sfLpc 1 false) ∧
    lpcV44_5.samples 4 = [-3, -4, -4, -3] := by decide +kernel

/-- Subframes of Fixed order 0, 1, 3 and 4 (V44.14, and V42.2, V42.3 and V42.4 as subframes of 8 bits). -/
def fixedOf (k : Nat) (warm rs : List Int) : SubframeCode := ⟨0, .fixed warm ⟨0, 0, [.rice k rs]⟩⟩

theorem witness_Subframe_fixed0 :
    let s := waiting 8 (block 3 (loaded [0x10, 0x00, 0xAA, 0xC0]))
    NblkReady s ∧ Bounded s ∧ (fixedOf 2 [] [3, -4, 0]).legal s.cfg.maxLpcOrder (nblkOf s) 8 = true ∧
    Stands s ((fixedOf 2 [] [3, -4, 0]).bits false 8) ∧ (fixedOf 2 [] [3, -4, 0]).header = .ok (.sfFixed0 false) := by
  decide +kernel

theorem witness_Subframe_fixed1 :
    let s := waiting 8 (block 4 (loaded [0x12, 0x64, 0x00, 0x36, 0xE0]))
    NblkReady s ∧ Bounded s ∧ (fixedOf 0 [100] [1, 1, -2]).legal s.cfg.maxLpcOrder (nblkOf s) 8 = true ∧
    Stands s ((fixedOf 0 [100] [1, 1, -2]).bits false 8) ∧
    (fixedOf 0 [100] [1, 1, -2]).header = .ok (.sfFixed1 false) ∧
    (fixedOf 0 [100] [1, 1, -2]).samples 4 = [100, 101, 102, 100] := by decide +kernel

theorem witness_Subframe_fixed3 :
    let s := waiting 8 (block 5 (loaded [0x16, 0x01, 0x04, 0x09, 0x00, 0x00]))
    NblkReady s ∧ Bounded s ∧ (fixedOf 0 [1, 4, 9] [0, 0]).legal s.cfg.maxLpcOrder (nblkOf s) 8 = true ∧
    Stands s ((fixedOf 0 [1, 4, 9] [0, 0]).bits false 8) ∧
    (fixedOf 0 [1, 4, 9] [0, 0]).header = .ok (.sfFixed3 false) ∧
    (fixedOf 0 [1, 4, 9] [0, 0]).samples 5 = [1, 4, 9, 16, 25] := by decide +kernel

theorem witness_Subframe_fixed4 :
    let s := waiting 8 (block 6 (loaded [0x18, 0x00, 0x01, 0x08, 0x1B, 0x00, 0x00]))
    NblkReady s ∧ Bounded s ∧ (fixedOf 0 [0, 1, 8, 27] [0, 0]).legal s.cfg.maxLpcOrder (nblkOf s) 8 = true ∧
    Stands s ((fixedOf 0 [0, 1, 8, 27] [0, 0]).bits false 8) ∧
    (fixedOf 0 [0, 1, 8, 27] [0, 0]).header = .ok (.sfFixed4 false) ∧
    (fixedOf 0 [0, 1, 8, 27] [0, 0]).samples 6 = [0, 1, 8, 27, 64, 125] := by decide +kernel

theorem witness_SubfIsItsHeader :
    (loaded [0x14, 0x00]).sub = none ∧ Bounded (loaded [0x14, 0x00]) ∧ Stands (loaded [0x14, 0x00]) (uintBits 8 0x14) ∧
    decode (.subframeHeader 0x14#8) = .ok (.sfFixed2 false) := by decide +kernel

/-- A core with smaller maxima (R10). -/
def small (s : State) : State := { s with cfg := { s.cfg with maxSubframeBps := 9, maxLpcOrder := 1 } }

/-- A depth above the maximum, V44.7 and V44.8, a reserved type 31, and LPC order 2 above a maximum of 1. -/
theorem witness_SubfRejects :
    let s (bytes : List Nat) := small (block 1 (loaded bytes))
    (Instr.subf 0 10).wellFormed = true ∧ NblkReady (s []) ∧ (s []).cfg.maxSubframeBps < 10 ∧
    (Instr.subf 0 9).wellFormed = true ∧ 9 ≤ (s []).cfg.maxSubframeBps ∧ Bounded (s [0x80]) ∧
    Stands (s [0x80]) [true] ∧ Stands (s [0x04]) (false :: uintBits 6 2) ∧ Stands (s [0x3E]) (false :: uintBits 6 31) ∧
    (s [0x42]).cfg.maxLpcOrder < 33 - 31 ∧ Stands (s [0x42]) (false :: uintBits 6 33) := by decide +kernel

/-- No stop bit, a wasted count of the depth itself (V44.9 and at the boundary), and V44.11. -/
theorem witness_SubfRejects_wasted :
    let s := block 1 (loaded [0x01, 0xFF])
    let t := block 1 (loaded [0x01, 0xFE, 0x00])
    let u := block 3 (loaded [0x18, 0x00, 0x00])
    (Stands s (false :: uintBits 6 0 ++ [true]) ∧
      bitsAt s.buf (0 + 8) (List.replicate (8 * 2 - (0 + 8)) true) = true) ∧
    (Stands t (subframeStart false 0 8)) ∧
    (NblkReady u ∧ nblkOf u < 4 ∧ Stands u (subframeStart false 12 0)) := by decide +kernel

/-- LPC of order 1 with warm-up 0 and precision field 15; the subframe with shift -1 of R227; V44.18: 128 does not fit. -/
theorem witness_SubfRejects_body :
    let s := block 2 (loaded [0x40, 0x00, 0xF0])
    let t := block 2 (loaded [0x40, 0x05, 0x0F, 0x80])
    let u := block 2 (loaded [0x12, 0x7F, 0x00, 0x30])
    (NblkReady s ∧ 1 ≤ s.cfg.maxLpcOrder ∧ Stands s (subframeStart false 32 0 ++ sintBits 8 0 ++ uintBits 4 15)) ∧
    (InRange 5 8 ∧ Stands t (subframeStart false 32 0 ++ sintBits 8 5 ++ uintBits 4 0 ++ sintBits 5 (-1))) ∧
    ((fixedOf 0 [127] [1]).body.fieldsLegal u.cfg.maxLpcOrder (nblkOf u) 8 = true ∧
      (∃ v ∈ (fixedOf 0 [127] [1]).body.samples (nblkOf u), ¬ InRange v 8) ∧
      Stands u ((fixedOf 0 [127] [1]).bits false 8)) := by decide +kernel

/-- V44.19 (a Constant value cut), and a wasted-bits count with no stop bit. -/
theorem witness_SubfRejects_cut :
    let s := block 1 (loaded [0x00])
    let t := block 1 (loaded [0x01, 0xFF])
    let x : SubframeCode := ⟨0, .constant (-7)⟩
    let y : SubframeCode := ⟨10, .constant 0⟩
    (NblkReady s ∧ x.body.fieldsLegal 32 1 8 = true ∧
      CutInside s (x.fields false 8) ((x.fields false 8).take 3) ⟨.fixed, sintBits 8 (-7)⟩ 0) ∧
    (y.wasted < 16 ∧ y.body.fieldsLegal 32 1 (16 - 10) = true ∧
      CutInside t (y.fields false 16) ((y.fields false 16).take 3) ⟨.unary, unaryBits false 9⟩ 8) := by
  refine ⟨⟨by decide +kernel, by decide +kernel, by decide +kernel, by decide +kernel, by decide +kernel, by decide +kernel⟩,
    by decide, by decide +kernel, by decide +kernel, by decide +kernel, by decide +kernel, by decide +kernel⟩

/-- Behind the start of the subframe of V44.4 a method of 2, and a partition order of 1, which 5 samples do not divide; behind
that of V44.5 a method of 3, and a partition order of 2, whose partitions of one sample are below the order 2. -/
theorem witness_SubfRejects_section :
    let fixedStart := subframeStart false 10 0 ++ [10, 13].flatMap (sintBits 16)
    let lpcStart := subframeStart false 33 0 ++
      ([-3, -4].flatMap (sintBits 8) ++ uintBits 4 2 ++ sintBits 5 1 ++ [1, 1].flatMap (sintBits 3))
    (fixedV44_4.body.fieldsLegal 32 5 16 = true ∧ fixedV44_4.body.beforeSection 16 = some ([10, 13].flatMap (sintBits 16)) ∧
      Stands (loaded [0x14, 0x00, 0x0A, 0x00, 0x0D, 0x80]) (fixedStart ++ uintBits 2 2) ∧
      Stands (loaded [0x14, 0x00, 0x0A, 0x00, 0x0D, 0x04]) (fixedStart ++ (uintBits 2 0 ++ uintBits 4 1)) ∧
      (5 % 2 ^ 1 ≠ 0 ∨ 5 / 2 ^ 1 < 2)) ∧
    (lpcV44_5.body.fieldsLegal 32 4 8 = true ∧
      Stands (loaded [0x42, 0xFD, 0xFC, 0x20, 0x93, 0x80]) (lpcStart ++ uintBits 2 3) ∧
      Stands (loaded [0x42, 0xFD, 0xFC, 0x20, 0x92, 0x10]) (lpcStart ++ (uintBits 2 0 ++ uintBits 4 2)) ∧
      4 / 2 ^ 2 < lpcV44_5.body.order) := by decide +kernel

theorem witness_SubfRejects_quotient :
    let x : SubframeCode := ⟨0, .fixed [] section30⟩
    x.body.fieldsLegal 32 (nblkOf (hugeQuotient 0)) 8 = true ∧ Bounded (hugeQuotient 0) ∧
    QuotientTooLarge (hugeQuotient 0) (x.fields false 8) ((x.fields false 8).take 6) ⟨.quotient 30, unaryBits false 0⟩ := by
  intro x
  have len : (hugeQuotient 0).len.toNat = 2 ^ 31 + 4 := rfl
  have pos : (hugeQuotient 0).pos.toNat = 0 := rfl
  have pre : fieldBits ((x.fields false 8).take 6) =
    [false, false, false, true, false, false, false, false,
      false, true, false, false, false, false, true, true, true, true, false] := by decide
  refine ⟨by decide +kernel, by rw [Bounded, len]; norm_num, by decide +kernel, 30, 2 ^ 34 + 5, rfl, by norm_num, ?_, ?_⟩
  · rw [List.length_append, show (hugeQuotient 0).cfg.unaryStop = false from rfl, length_unaryBits, len, pos, pre]; decide
  · rw [show (hugeQuotient 0).cfg.unaryStop = false from rfl, bitsAt_append, pre, pos, Bool.and_eq_true]
    refine ⟨?_, hugeQuotient_unary 0⟩
    simp [bitsAt, BitIs, hugeQuotient, cellGet_map_range]

theorem witness_SubfSamplesFit :
    get (exec (.subf 0 8) (block 3 (loaded [0x03, 0x85, 0xF5, 0xF0]))) (fun t => t.code) = some .ok := by decide +kernel

theorem witness_SubframesFrame :
    (get (exec (.subf 0 8) (block 3 (loaded [0x03, 0x85, 0xF5, 0xF0]))) id).isSome = true ∧
    isSubframeHeader (.sfVerbatim true) = true ∧
    (get (exec (.sfVerbatim true) (waiting 8 (block 3 (loaded [0x03, 0x85, 0xF5, 0xF0])))) id).isSome = true := by
  decide +kernel

theorem witness_HeaderWithoutSubframe : isSubframeHeader (.sfConstant false) = true ∧ State.reset.sub = none := by decide

theorem witness_DecorIndependent :
    (Instr.decor 7 16).wellFormed = true ∧ NblkReady (block 1 State.reset) ∧ (7#8).toNat ≤ 7 := by decide +kernel

/-- V45.1, V45.7 and V45.8. -/
theorem witness_Decor :
    let s (x y : Int) := samples 1 [y] (samples 0 [x] (block 1 State.reset))
    NblkReady (s 250 1500) ∧ holdsAt (s 250 1500).smp (smpAddress 0 0) [250] = true ∧
    holdsAt (s 250 1500).smp (smpAddress 1 0) [1500] = true ∧
    List.zipWith (leftRight 10) [250] [1500] = [(1000, -500)] ∧
    List.zipWith (leftRight 8) [1000] [1500] = [(1000, -500)] ∧
    List.zipWith (leftRight 9) [1500] [-500] = [(1000, -500)] ∧ InRange 1000 16 ∧ InRange (-500) 16 := by decide +kernel

/-- Two of the pairs of 45_decorrelator.md R244. -/
theorem witness_MidSide :
    let ls : List Int := [1000, -32768]
    let rs : List Int := [-500, 32767]
    let s := samples 1 [1500, -65535] (samples 0 [250, -1] (block 2 State.reset))
    NblkReady s ∧ nblkOf s = 2 ∧ (∀ v ∈ ls, InRange v 16) ∧ (∀ v ∈ rs, InRange v 16) ∧
    holdsAt s.smp (smpAddress 0 0) (List.zipWith (fun l r : Int => (l + r) >>> (1 : Nat)) ls rs) = true ∧
    holdsAt s.smp (smpAddress 1 0) (List.zipWith (fun l r : Int => l - r) ls rs) = true := by decide +kernel

/-- V45.9, V45.10 and V45.11. -/
theorem witness_DecorOutside :
    let s := samples 1 [65535] (samples 0 [0] (block 1 State.reset))
    NblkReady s ∧ holdsAt s.smp (smpAddress 0 0) [0] = true ∧ holdsAt s.smp (smpAddress 1 0) [65535] = true ∧
    FitsEntry 0 ∧ FitsEntry 65535 ∧
    (∃ p ∈ List.zipWith (leftRight 10) [0] [65535], ¬ (InRange p.1 16 ∧ InRange p.2 16)) ∧
    (∃ p ∈ List.zipWith (leftRight 8) [-32768] [1], ¬ (InRange p.1 16 ∧ InRange p.2 16)) ∧
    (∃ p ∈ List.zipWith (leftRight 9) [-1] [-32768], ¬ (InRange p.1 16 ∧ InRange p.2 16)) := by decide +kernel

theorem witness_DecorFrame :
    (get (exec (.decor 10 16) (samples 1 [1500] (samples 0 [250] (block 1 State.reset)))) id).isSome = true := by
  decide +kernel

/-- The header of V46.1 and the two-byte number of V46.16. -/
def headerV46_1 : HeaderCode := ⟨0, 6, 9, 10, 4, 0, 0, 3, 0⟩
def headerV46_16 : HeaderCode := ⟨0, 6, 9, 10, 4, 300, 1, 3, 0⟩

theorem witness_Fhdr :
    let s := si16 (loaded [0xFF, 0xF8, 0x69, 0xA8, 0x00, 0x03, 0x5C])
    let t := si16 (loaded [0xFF, 0xF8, 0x69, 0xA8, 0xC4, 0xAC, 0x03, 0x67])
    s.siValid = true ∧ RegistersDefined s [0x10, 0x11, 0x12, 0x15] ∧ s.pos.toNat % 8 = 0 ∧ Bounded s ∧
    headerV46_1.legal s = true ∧ Stands s headerV46_1.bits ∧ headerV46_16.legal t = true ∧ Stands t headerV46_16.bits := by
  decide +kernel

/-- V46.21: a failed FHDR. -/
theorem witness_Fhdr_failed :
    get (exec .fhdr (si16 (loaded [0xFF, 0xF8, 0x69, 0xA8, 0x00, 0x03, 0x5D]))) (fun t => decide (t.code ≠ .ok)) =
      some true := by decide +kernel

/-- V46.3, V46.4 and V46.5. -/
theorem witness_FhdrRefuses :
    let s := si16 (loaded [0xFE, 0xF8, 0x69, 0xA8, 0x00, 0x03, 0x5C])
    State.reset.siValid = false ∧ s.siValid = true ∧ { s with pos := 4 }.pos.toNat % 8 ≠ 0 ∧ Bounded s ∧
    0x3FBE < 2 ^ 14 ∧ (0x3FBE : Nat) ≠ 0x3FFE ∧ Stands s (uintBits 14 0x3FBE) := by decide +kernel

/-- Each of the eleven reserved starts of the header of V46.1, as bytes. -/
theorem witness_FhdrRefuses_reserved :
    headerV46_1.codesLegal = true ∧
    (headerV46_1.reservedStarts.zip [[0xFF, 0xFA], [0xFF, 0xF8, 0x00], [0xFF, 0xF8, 0x6F], [0xFF, 0xF8, 0x69, 0xB0],
      [0xFF, 0xF8, 0x69, 0xC0], [0xFF, 0xF8, 0x69, 0xD0], [0xFF, 0xF8, 0x69, 0xE0], [0xFF, 0xF8, 0x69, 0xF0],
      [0xFF, 0xF8, 0x69, 0xA6], [0xFF, 0xF8, 0x69, 0xAE], [0xFF, 0xF8, 0x69, 0xA9]]).all
        (fun p => decide (Stands (si16 (loaded p.2)) p.1)) = true := by decide +kernel

/-- The bad bytes of the number (80, FF, and 00 after C4) and a block size of 65536. -/
theorem witness_FhdrRefuses_number :
    let s (bytes : List Nat) := si16 (loaded ([0xFF, 0xF8, 0x69, 0xA8] ++ bytes))
    let h : HeaderCode := { headerV46_1 with blockCode := 7 }
    Stands (s [0x80]) (headerV46_1.fixedBits ++ uintBits 8 0x80) ∧
    Stands (s [0xFF]) (headerV46_1.fixedBits ++ uintBits 8 0xFF) ∧
    (0 < headerV46_16.extra ∧ headerV46_16.numberLegal = true ∧
      Stands (s [0xC4, 0x00]) (headerV46_16.fixedBits ++ headerV46_16.numberBits.take (8 * (0 + 1)) ++ uintBits 8 0x00)) ∧
    (h.codesLegal = true ∧ h.numberLegal = true ∧
      Stands (si16 (loaded [0xFF, 0xF8, 0x79, 0xA8, 0x00, 0xFF, 0xFF])) (h.fixedBits ++ h.numberBits ++ uintBits 16 0xFFFF)) := by
  decide +kernel

/-- A cut header, V46.21 (a wrong CRC-8), a StreamInfo that differs, and a depth above a smaller P_MAX_BPS. -/
theorem witness_FhdrRefuses_checks :
    let bytes := [0xFF, 0xF8, 0x69, 0xA8, 0x00, 0x03, 0x5C]
    let s := si16 (loaded bytes)
    let mono := { s with si := { s.si with channels := 1 } }
    let cut := si16 (loaded (bytes.take 5))
    headerV46_1.fieldsLegal = true ∧ RegistersDefined s [0x10, 0x11, 0x12, 0x15] ∧
    (40 < headerV46_1.bits.length ∧ 8 * cut.len.toNat = 0 + 40 ∧ Stands cut (headerV46_1.bits.take 40)) ∧
    (0x5D ≠ headerV46_1.crc.toNat ∧
      Stands (si16 (loaded [0xFF, 0xF8, 0x69, 0xA8, 0x00, 0x03, 0x5D])) (headerV46_1.bodyBits ++ uintBits 8 0x5D)) ∧
    (Stands mono headerV46_1.bits ∧ ¬ headerV46_1.Agrees mono) ∧
    (headerV46_1.Agrees s ∧ { s.cfg with maxBps := 12 }.maxBps < s.si.bps.toNat) := by decide +kernel

/-- V46.28, V46.29, V46.30 and V46.31. -/
theorem witness_Fftr :
    let s := { loaded [0x12, 0x34] with crc16 := 0x1234 }
    let t := loaded [0xA0, 0x03, 0xC0] 3
    let pad := List.replicate 5 false
    (Bounded s ∧ Stands s (uintBits 16 0x1234) ∧ 0x1234 = (moveBy 0 s).crc16.toNat) ∧
    (Stands { loaded [0x12, 0x35] with crc16 := 0x1234 } (uintBits 16 0x1235)) ∧
    (pad.length = (8 - t.pos.toNat % 8) % 8 ∧ Stands t (pad ++ uintBits 16 0x03C0) ∧
      0x03C0 = (moveBy 5 t).crc16.toNat) ∧
    (Stands (loaded [0xA0, 0x12] 3) pad ∧ 8 * (loaded [0xA0, 0x12] 3).len.toNat < 3 + 5 + 16) := by decide +kernel

/-- The frames of P3 and, its CRC-16 field not matching, P5. -/
def codeP3 (warm : Int) : FrameCode :=
  { header := headerV46_1
    subframes := [⟨0, .fixed [warm] ⟨0, 0, [.rice 0 [0, 0, 0]]⟩⟩, ⟨0, .fixed [1500] ⟨0, 0, [.rice 0 [0, 0, 0]]⟩⟩]
    padding := List.replicate 5 false
    crc := 0x7204 }

theorem witness_Frame :
    let s := si16 (loaded frameP3)
    s.siValid = true ∧ RegistersDefined s [0x10, 0x11, 0x12, 0x15] ∧ 1 ≤ s.si.bps.toNat ∧ Bounded s ∧
    (codeP3 250).legal s = true ∧ Stands s ((codeP3 250).bits s) ∧ (codeP3 250).crc = ((codeP3 250).expectedCrc s).toNat ∧
    (codeP3 250).decoded = [[1000, 1000, 1000, 1000], [-500, -500, -500, -500]] := by decide +kernel

theorem witness_Frame_crc_mismatch :
    let s := si16 (loaded frameP5)
    (codeP3 506).legal s = true ∧ Stands s ((codeP3 506).bits s) ∧ (codeP3 506).crc ≠ ((codeP3 506).expectedCrc s).toNat := by
  decide +kernel

/-- P3 run step by step: the states the steps of FRAME go through. -/
def p3Header : State := nextOf (exec .fhdr (si16 (loaded frameP3)))
def p3First : State := nextOf (exec (.subf 0 16) p3Header)
def p3Second : State := nextOf (exec (.subf 1 17) p3First)
def p3Footer : State := nextOf (exec .fftr p3Second)

theorem p3_subframeOf : subframeOf p3Header.fh 0 = .subf 0 16 ∧ subframeOf p3Header.fh 1 = .subf 1 17 ∧
    decorOf p3Header.fh = .decor 10 16 ∧ p3Header.fh.channels.toNat = 2 := by decide +kernel

theorem p3_subframesRun : SubframesRun p3Header.fh 2 0 p3Header p3Second := by
  refine ⟨p3First, ?_, by decide +kernel, p3Second, ?_, by decide +kernel, rfl⟩
  · rw [p3_subframeOf.1]; exact eq_next (by decide +kernel)
  · rw [p3_subframeOf.2.1]; exact eq_next (by decide +kernel)

theorem witness_FrameIsItsSteps :
    ∃ s1 s2 s3 s4 : State, exec .fhdr (si16 (loaded frameP3)) = .next s1 ∧ s1.code = .ok ∧
      SubframesRun s1.fh s1.fh.channels.toNat 0 s1 s2 ∧ exec .fftr s2 = .next s3 ∧ s3.code.fatal = false ∧
      exec (decorOf s1.fh) s3 = .next s4 ∧ s4.code = .ok := by
  refine ⟨p3Header, p3Second, p3Footer, nextOf (exec (.decor 10 16) p3Footer), eq_next (by decide +kernel),
    by decide +kernel, ?_, eq_next (by decide +kernel), by decide +kernel, ?_, by decide +kernel⟩
  · rw [p3_subframeOf.2.2.2]; exact p3_subframesRun
  · rw [p3_subframeOf.2.2.1]; exact eq_next (by decide +kernel)

/-- No StreamInfo and V46.6 (no sync code, Resync) end in FHDR; P3 with a subframe of a reserved type, P3 cut before its CRC-16
and P3 with side samples that leave the depth end in the other steps; and a cursor at the end of the buffer. -/
theorem witness_FrameIsItsSteps_failing :
    let code (o : Host.Outcome State Fault Refusal) := get o fun t => t.code
    let header (bytes : List Nat) := nextOf (exec .fhdr (si16 (loaded bytes)))
    let first := nextOf (exec (.subf 0 16) (header (frameP3.take 17)))
    let second := nextOf (exec (.subf 1 17) first)
    (code (exec .fhdr (loaded frameP3)) = some .illegalCommand ∧
      code (exec .fhdr { si16 (loaded [0xFE, 0xF8]) with scan := true }) = some .resync) ∧
    ((header (frameP3.set 7 0x04)).code = .ok ∧
      code (exec (subframeOf (header (frameP3.set 7 0x04)).fh 0) (header (frameP3.set 7 0x04))) = some .malformedStream) ∧
    (first.code = .ok ∧ second.code = .ok ∧ code (exec .fftr second) = some .outOfData) ∧
    (p3Footer.code.fatal = false ∧ code (exec (.decor 10 16) (samples 1 [65535] p3Footer)) = some .malformedStream) ∧
    (si16 (loaded frameP3 (8 * 19))).pos.toNat = 8 * (si16 (loaded frameP3 (8 * 19))).len.toNat := by decide +kernel

theorem witness_FrameCommandsFrame :
    (get (exec .fhdr (si16 (loaded frameP3))) id).isSome = true ∧ (get (exec .fftr (loaded [0xA0, 0x03, 0xC0] 3)) id).isSome = true ∧
    (get (exec .frame (si16 (loaded frameP3))) id).isSome = true := by decide +kernel

/-- A fatal end of each kind of command: V41.6, V42.5, V42.11, V43.8, V44.7, V45.9, V46.5, and the word of V41.8. -/
theorem witness_FatalEnd :
    let fatal (i : Instr) (s : State) := get (exec i s) (fun t => (t.code.fatal, decide (t.code = .illegalCommand)))
    fatal (.rdb 17) (loaded [0xA5, 0x3C]) = some (true, false) ∧
    fatal (.fixp 2 0 16) (residuals [1] (samples 0 [32767, 32767] (block 3 State.reset))) = some (true, false) ∧
    fatal (.lpcp 1 0 16) (lpc [1] 0x1F (samples 0 [0] (block 2 State.reset))) = some (true, false) ∧
    fatal (.resd 0) (block 4 (loaded [0x80, 0, 0])) = some (true, false) ∧
    fatal (.subf 0 8) (block 1 (loaded [0x80, 0])) = some (true, false) ∧
    fatal (.decor 10 16) (samples 1 [65535] (samples 0 [0] (block 1 State.reset))) = some (true, false) ∧
    fatal .frame (si16 (loaded [0xFE, 0xF8])) = some (true, false) ∧
    fatal (.rdb 65) (loaded [0xA5]) = some (true, true) := by decide +kernel

theorem witness_IntegrityError :
    get (exec .fftr { loaded [0x12, 0x35] with crc16 := 0x1234 }) (fun t => t.code) = some .integrityError := by decide +kernel

theorem witness_ValidFlag :
    (get (exec .frame (si16 (loaded frameP3))) id).isSome = true ∧ (get (exec .gc8 State.reset) id).isSome = true := by
  decide +kernel

theorem witness_StreamCommandsEnd :
    isStreamCommand .frame = true ∧ isStreamCommand (.subf 0 8) = true ∧
    (∀ a, a < (loaded frameP3).len.toNat → (cellGet (loaded frameP3).buf a).isSome = true) ∧ Bounded (loaded frameP3) ∧
    (loaded frameP3).pos.toNat ≤ 8 * (loaded frameP3).len.toNat ∧
    MarksSound (loaded frameP3) ∧ LeftUndef (block 4 (loaded frameP3)) 0x21 = false ∧
    LeftUndef (loaded frameP3) 0x21 = false := by unfold MarksSound; decide +kernel

/-- P3 in two states that differ in RES, RESULT and a byte the cursor has passed. -/
theorem witness_FramesAreIndependent :
    let s := si16 (loaded (0x00 :: frameP3) 8)
    let s' := { residuals [9] (si16 (loaded (0x77 :: frameP3) 8)) with result := 5 }
    s'.cfg = s.cfg ∧ s'.len = s.len ∧ s'.pos = s.pos ∧ s'.si = s.si ∧ s'.siValid = s.siValid ∧ s'.scan = s.scan ∧
    (∀ a, a < s.len.toNat → s.pos.toNat / 8 ≤ a → cellGet s'.buf a = cellGet s.buf a) ∧ Bounded s ∧
    MarksSound s ∧ MarksSound s' ∧ (get (exec .frame s) id).isSome = true := by unfold MarksSound; decide +kernel

theorem witness_StepKeepsInvariant :
    Inv (asked (.writeRegister 0x00 0x32) (si16 (loaded frameP3))) ∧
    (get (step (asked (.writeRegister 0x00 0x32) (si16 (loaded frameP3)))) id).isSome = true := by
  refine ⟨⟨by decide +kernel, ⟨by decide +kernel, by decide +kernel, by decide +kernel⟩,
    ⟨by decide +kernel, by decide +kernel, by decide +kernel⟩, ⟨by decide +kernel, by decide +kernel⟩,
    fun _ => by decide +kernel, by unfold MarksSound; decide +kernel, rfl⟩, by decide +kernel⟩

/-- What a failed FRAME left UNDEF: NBLK, SF_SHIFT and QLP[0]; and an UNDEF warm-up sample. -/
theorem witness_UndefReads :
    let z := undefFrameHeader (undefSubframeRegs State.reset)
    let s := residuals [0] (samples 0 [0] (block 2 z))
    (Instr.fixp 0 0 16).wellFormed = true ∧ LeftUndef z 0x21 = true ∧
    (isSubframeHeader (.sfFixed0 false) = true ∧ (waiting 16 z).sub = some ⟨0, 16⟩ ∧
      (Instr.subf 0 16).wellFormed = true) ∧
    (NblkReady (block 2 State.reset) ∧ (1#8).toNat ≤ nblkOf (block 2 State.reset) ∧
      cellGet (block 2 State.reset).smp (smpAddress 0 0) = none) ∧
    (NblkReady s ∧ holdsAt s.smp (smpAddress 0 0) [0] = true ∧ InRange 0 16 ∧ LeftUndef s 0x34 = true) ∧
    (LeftUndef (setShift 0 s) 0x34 = false ∧ 0 ≤ (setShift 0 s).sf.shift.toInt ∧ (cellGet s.res 0).isSome = true ∧
      LeftUndef (setShift 0 s) (0x40 + 0) = true) := by decide +kernel

/-- What nothing has written since reset: NBLK, SF_SHIFT and QLP[0]. -/
theorem witness_UndefReads_unwritten :
    let s := residuals [5] (samples 0 [0] (block 2 State.reset))
    ((Instr.resd 0).wellFormed = true ∧ (get (exec (.resd 0) State.reset) id).isSome = true ∧
      State.reset.undef.getLsbD 0x21 = true) ∧
    (get (exec (.lpcp 1 0 16) s) (fun t => t.code) = some .ok ∧ s.undef.getLsbD 0x34 = true) ∧
    (get (exec (.lpcp 1 0 16) (setShift 0 s)) (fun t => t.code) = some .ok ∧
      (1#8).toNat < nblkOf (setShift 0 s) ∧ (setShift 0 s).undef.getLsbD (0x40 + 0) = true) := by decide +kernel

/-- These bytes loaded, the one at address a not written. -/
def missing (a : Nat) (bytes : List Nat) (p : Nat := 0) : State :=
  { loaded bytes p with buf := (bufOf bytes).filter fun c => c.1 != a }

/-- The second byte of a field, of a unary code and of a Rice code, and the byte ALN completes, have not been written. -/
theorem witness_UndefReads_cursor :
    MeetsUnwritten (missing 1 [0xA5, 0x3C]) (uintBits 12 0xA53) ∧ MeetsUnwritten (missing 1 [0xFF, 0xE0]) (unaryBits false 11) ∧
    (MeetsUnwritten (missing 1 [0xFE, 0xC0]) (riceBits false 2 14) ∧ FitsEntry 14) ∧
    ((missing 0 [0xA5] 3).pos.toNat % 8 ≠ 0 ∧ cellGet (missing 0 [0xA5] 3).buf (3 / 8) = none) := by
  refine ⟨⟨by decide, 8, by decide, by decide +kernel, by decide +kernel⟩,
    ⟨by decide, 8, by decide, by decide +kernel, by decide +kernel⟩,
    ⟨⟨by decide, 8, by decide, by decide +kernel, by decide +kernel⟩, by decide⟩, by decide, by decide +kernel⟩

/-- The second residual of FIXP and of LPCP, the second right/side sample, and the second byte of a field are UNDEF. -/
theorem witness_UndefReads_later :
    let s := lpc [1] 0 (residuals [2] (samples 0 [5] (block 3 State.reset)))
    let t := samples 1 [7] (samples 0 [1, 2] (block 2 State.reset))
    (NblkReady s ∧ holdsAt s.smp (smpAddress 0 0) [5] = true ∧ holdsAt s.res 0 [2] = true ∧
      (∀ v ∈ rebuild (fixedCoefficients 1) 0 [5] [2], InRange v 16) ∧
      RegistersDefined s (0x34 :: (List.range 1).map (0x40 + ·)) ∧ s.sf.shift.toInt = (0 : Nat) ∧
      (∀ v ∈ rebuild (coefficientsOf s 1) 0 [5] [2], InRange v 16) ∧ 1 + 1 < nblkOf s ∧ cellGet s.res 1 = none) ∧
    (NblkReady t ∧ holdsAt t.smp (smpAddress 0 0) [1] = true ∧ holdsAt t.smp (smpAddress 1 0) [7] = true ∧
      (∀ p ∈ List.zipWith (leftRight 9) [1] [7], InRange p.1 16 ∧ InRange p.2 16) ∧ 1 < nblkOf t ∧
      cellGet t.smp (smpAddress 1 1) = none) := by decide +kernel

/-- The section of V43.1, the subframe of V44.4, the header of V46.1, the field of V46.31 and the frame of P3, a byte of each
not written. -/
theorem witness_UndefReads_stream :
    MeetsUnwritten (block 8 (missing 2 [0x04, 0x79, 0x7C, 0x8F, 0x01, 0xE0])) (sectionV43_1.bits false) ∧
    MeetsUnwritten (block 5 (missing 1 [0x14, 0x00, 0x0A, 0x00, 0x0D, 0x00, 0x65, 0x00])) (fixedV44_4.bits false 16) ∧
    MeetsUnwritten (si16 (missing 6 [0xFF, 0xF8, 0x69, 0xA8, 0x00, 0x03, 0x5C])) headerV46_1.bits ∧
    MeetsUnwritten (missing 1 [0xA0, 0x03, 0xC0] 3) (List.replicate 5 false ++ uintBits 16 0x03C0) ∧
    MeetsUnwritten (si16 (missing 18 frameP3)) ((codeP3 250).bits (si16 (missing 18 frameP3))) := by
  refine ⟨⟨by decide +kernel, 16, by decide +kernel, by decide +kernel, by decide +kernel⟩,
    ⟨by decide +kernel, 8, by decide +kernel, by decide +kernel, by decide +kernel⟩,
    ⟨by decide +kernel, 48, by decide +kernel, by decide +kernel, by decide +kernel⟩,
    ⟨by decide +kernel, 5, by decide +kernel, by decide +kernel, by decide +kernel⟩,
    ⟨by decide +kernel, 144, by decide +kernel, by decide +kernel, by decide +kernel⟩⟩

/-- SEEK to LEN and beyond, LEN at P_BUF_MAX and above it, and LEN at and below the cursor. -/
theorem witness_HostSeeks :
    let s := loaded [0xA5, 0x3C] 9
    (asked (.writeRegister 0x05 2) s).sub = none ∧ (2 : Word).toNat ≤ s.len.toNat ∧ s.len.toNat < (3 : Word).toNat ∧
    s.cfg.bufMax = 2 ^ 61 ∧ s.cfg.bufMax < (BitVec.ofNat 64 (2 ^ 61 + 1)).toNat ∧ s.pos.toNat ≤ 8 * (2 : Word).toNat ∧
    8 * (1 : Word).toNat < s.pos.toNat := by decide +kernel

theorem witness_HostWritesRegisters :
    (asked (.writeRegister 0x21 5) State.reset).sub = none ∧
    (asked (.writeRegister 0x21 5) State.reset).inbox = .writeRegister 0x21 5 :: [] ∧
    (0x01#7).toNat = 0x01 ∧ (0x03#7).toNat = 0x03 ∧ (0x33#7).toNat ≤ 0x33 ∧ (0x27#7).toNat ≤ 0x27 ∧
    (0x34#7).toNat = 0x34 ∧ 0x40 ≤ (0x5F#7).toNat ∧ 0x60 ≤ (0x7F#7).toNat := by decide

/-- Reads: marks that only registers with an UNDEF reset value have, a marked register and a register that holds a value. -/
theorem witness_HostReadsRegisters :
    (asked (.readRegister 0x04) State.reset).sub = none ∧
    (asked (.readRegister 0x04) State.reset).inbox = .readRegister 0x04 :: [] ∧ MarksSound State.reset ∧
    State.reset.pos.toNat < 2 ^ 64 ∧ State.reset.undef.getLsbD 0x5F = true ∧
    (si16 State.reset).undef.getLsbD 0x17 = false ∧ (block 4 State.reset).undef.getLsbD 0x21 = false ∧
    (lpc [-3] 0x1F State.reset).undef.getLsbD 0x34 = false ∧ (lpc [-3] 0x1F State.reset).undef.getLsbD 0x40 = false ∧
    (setSubframeHeader 9 1 0 State.reset).undef.getLsbD 0x30 = false := by unfold MarksSound; decide +kernel

/-- A complete StreamInfo, an incomplete one, and a depth out of range. -/
theorem witness_HostValidatesStreamInfo :
    let s := si16 State.reset
    (∀ r, r ≤ 0x17 → 0x10 ≤ r → s.undef.getLsbD r = false) ∧ 1 ≤ s.si.channels.toNat ∧ s.si.channels.toNat ≤ 8 ∧
    4 ≤ s.si.bps.toNat ∧ s.si.bps.toNat ≤ 32 ∧ State.reset.undef.getLsbD 0x10 = true ∧
    ¬ ({ s.si with bps := 33 }.bps.toNat ≤ 32) ∧ 0x10 ≤ (0x17#7).toNat ∧ (0x17#7).toNat ≤ 0x17 ∧
    (asked (.writeRegister 0x18 0) s).inbox = .writeRegister 0x18 0 :: [] ∧ s.siValid = true := by decide +kernel

theorem witness_HostReachesBuffers :
    (asked (.readBuf 0) State.reset).sub = none ∧ (asked (.readBuf 0) State.reset).inbox = .readBuf 0 :: [] ∧
    2 ^ 61 - 1 < State.reset.cfg.bufMax ∧ ¬ (65535 ≤ 65534) ∧ IsSmpAddress (7 * 65536 + 65534) ∧
    ¬ IsSmpAddress (7 * 65536 + 65535) ∧ ¬ IsSmpAddress (8 * 65536) := by decide +kernel

end Sys2Proof.Tests
end

section
/-! SUPPORT. What a part of a command may write, when it ends, and with which codes: one Hoare triple per operation,
against a footprint of the entries and marks it is allowed to touch. The record frames of Laws/Frames.lean say which
fields differ; this says which entries of RES and SMP and which UNDEF marks do, and that the cursor stays in the buffer. -/

namespace Sys2Proof.Machine

/-! Cells changed at some addresses only. -/

/-- n lists cells of m and cells at addresses of P, and is canonical if m is. -/
structure CellsFrom {α : Type} (P : Nat → Prop) (m n : List (Nat × α)) : Prop where
  wf : cellsWf m = true → cellsWf n = true
  mem : ∀ c ∈ n, c ∈ m ∨ P c.1

theorem CellsFrom.cellErase {α : Type} {P : Nat → Prop} (m : List (Nat × α)) (lo count : Nat) :
    CellsFrom P m (cellErase m lo count) :=
  ⟨fun h => cellsWf_cellErase h lo count, fun _ hc => .inl (mem_cellErase hc)⟩

/-- n comes from m by writing or erasing cells at addresses of P only. -/
structure CellsWithin {α : Type} (P : Nat → Prop) (m n : List (Nat × α)) : Prop extends CellsFrom P m n where
  get : ∀ x, ¬ P x → cellGet n x = cellGet m x

namespace CellsWithin

variable {α : Type} {P : Nat → Prop} {m n o : List (Nat × α)}

theorem refl (m : List (Nat × α)) : CellsWithin P m m := ⟨⟨id, fun _ => .inl⟩, fun _ _ => rfl⟩

theorem trans (h : CellsWithin P m n) (h' : CellsWithin P n o) : CellsWithin P m o where
  wf := h'.wf ∘ h.wf
  mem c hc := (h'.mem c hc).elim (h.mem c) .inr
  get x hx := (h'.get x hx).trans (h.get x hx)

theorem cellSet {a : Nat} (ha : P a) (v : α) : CellsWithin P m (cellSet m a v) where
  wf h := cellsWf_cellSet h a v
  mem c hc := (mem_cellSet hc).elim (fun e => .inr (e ▸ ha)) .inl
  get x hx := by rw [cellGet_cellSet, if_neg fun e : x = a => hx (e ▸ ha)]

theorem cellErase {lo count : Nat} (h : ∀ x, lo ≤ x → x < lo + count → P x) :
    CellsWithin P m (cellErase m lo count) where
  toCellsFrom := .cellErase m lo count
  get x hx := by rw [cellGet_cellErase, if_neg fun ⟨h1, h2⟩ => hx (h x h1 h2)]

theorem sameOutside {m n : Entries} {a count : Nat} (h : CellsWithin P m n) (hP : ∀ x, P x → a ≤ x ∧ x < a + count) :
    SameOutside m n a count :=
  fun x hx => h.get x fun hp => by have := hP x hp; omega

end CellsWithin

/-! UNDEF marks, bit by bit. -/

theorem getLsbD_markRange {lo count : Nat} (h : lo + count ≤ 128) (n : Nat) :
    (markRange lo count).getLsbD n = decide (lo ≤ n ∧ n < lo + count) := by
  rw [markRange, BitVec.getLsbD_ofNat, Nat.testBit_mul_two_pow, Nat.testBit_two_pow_sub_one, Bool.eq_iff_iff]
  simp only [Bool.and_eq_true, decide_eq_true_eq]
  omega

theorem getLsbD_clearMark (n : Nat) (u : BitVec 128) (r : Nat) :
    (clearMark n u).getLsbD r = (u.getLsbD r && !decide (r = n)) := by
  by_cases hr : r < 128
  · have : (1#128 <<< n).getLsbD r = decide (r = n) := by
      rw [BitVec.getLsbD_shiftLeft, BitVec.getLsbD_one, Bool.eq_iff_iff]
      simp only [Bool.and_eq_true, decide_eq_true_eq, Bool.not_eq_true', decide_eq_false_iff_not]
      omega
    rw [clearMark, BitVec.getLsbD_and, BitVec.getLsbD_not, this]
    simp [hr]
  · rw [BitVec.getLsbD_of_ge _ _ (by omega), BitVec.getLsbD_of_ge u _ (by omega), Bool.false_and]

/-- Clearing a range of marks. -/
theorem getLsbD_clearRange {lo count : Nat} (h : lo + count ≤ 128) (u : BitVec 128) (r : Nat) :
    (u &&& ~~~(markRange lo count)).getLsbD r = (u.getLsbD r && !decide (lo ≤ r ∧ r < lo + count)) := by
  by_cases hr : r < 128
  · rw [BitVec.getLsbD_and, BitVec.getLsbD_not, getLsbD_markRange h]
    simp [hr]
  · rw [BitVec.getLsbD_of_ge _ _ (by omega), BitVec.getLsbD_of_ge u _ (by omega), Bool.false_and]

/-- Two sets of marks agree outside the registers of P. -/
def MarksWithin (P : Nat → Prop) (u v : BitVec 128) : Prop := ∀ n, ¬ P n → v.getLsbD n = u.getLsbD n

namespace MarksWithin

variable {P : Nat → Prop} {u v w : BitVec 128}

theorem refl (u : BitVec 128) : MarksWithin P u u := fun _ _ => rfl

theorem trans (h : MarksWithin P u v) (h' : MarksWithin P v w) : MarksWithin P u w :=
  fun n hn => (h' n hn).trans (h n hn)

theorem clearMark {r : Nat} (h : P r) : MarksWithin P u (clearMark r u) := fun n hn => by
  rw [getLsbD_clearMark, decide_eq_false fun e : n = r => hn (e ▸ h)]; simp

theorem clearRange {lo count : Nat} (hb : lo + count ≤ 128) (h : ∀ r, lo ≤ r → r < lo + count → P r) :
    MarksWithin P u (u &&& ~~~(markRange lo count)) := fun n hn => by
  rw [getLsbD_clearRange hb, decide_eq_false fun e => hn (h n e.1 e.2)]; simp

theorem setRange {lo count : Nat} (hb : lo + count ≤ 128) (h : ∀ r, lo ≤ r → r < lo + count → P r) :
    MarksWithin P u (u ||| markRange lo count) := fun n hn => by
  rw [BitVec.getLsbD_or, getLsbD_markRange hb, decide_eq_false fun e => hn (h n e.1 e.2), Bool.or_false]

end MarksWithin

/-! Footprints. -/

/-- What a command may touch: the block sizes it may meet, the RES and SMP addresses it may write, and the registers
whose UNDEF mark it may change. -/
structure Footprint where
  block : Nat → Prop
  res : Nat → Prop
  smp : Nat → Prop
  marks : Nat → Prop

/-- The cursor is in the buffer, and its position is one that 65 bits hold (R31, R11). -/
def CursorSound (s : State) : Prop := Bounded s ∧ s.pos.toNat ≤ 8 * s.len.toNat

/-- RES, SMP and the marks of both sorts differ inside the footprint only. -/
structure OutputsWithin (f : Footprint) (s t : State) : Prop where
  res : CellsWithin f.res s.res t.res
  smp : CellsWithin f.smp s.smp t.smp
  undef : MarksWithin f.marks s.undef t.undef
  spoiled : MarksWithin f.marks s.spoiled t.spoiled

theorem OutputsWithin.refl {f : Footprint} (s : State) : OutputsWithin f s s := ⟨.refl _, .refl _, .refl _, .refl _⟩

theorem OutputsWithin.trans {f : Footprint} {s t u : State} (h : OutputsWithin f s t) (h' : OutputsWithin f t u) :
    OutputsWithin f s u :=
  ⟨h.res.trans h'.res, h.smp.trans h'.smp, h.undef.trans h'.undef, h.spoiled.trans h'.spoiled⟩

/-- Only what the parts of a command can write differs: the cursor, the CRCs, RESULT, VALID, the FH, SF and QLP
registers, their marks, RES, SMP and the record of a model fault. -/
def CommandOnly (s t : State) : Prop :=
  t = { s with pos := t.pos, crc8 := t.crc8, crc16 := t.crc16, result := t.result, valid := t.valid, fh := t.fh,
               sf := t.sf, qlp := t.qlp, undef := t.undef, undefRead := t.undefRead, res := t.res, smp := t.smp }

theorem commandOnly_closed : Closed CommandOnly where
  refl _ := rfl
  trans h1 h2 := by unfold CommandOnly at *; rw [h2, h1]

/-- A run of parts of a command from s to t stays inside the footprint. -/
structure Inside (f : Footprint) (s t : State) : Prop where
  block : f.block (nblkOf t)
  only : CommandOnly s t
  outputs : OutputsWithin f s t
  cursor : CursorSound s → CursorSound t

theorem Inside.refl {f : Footprint} {s : State} (h : f.block (nblkOf s)) : Inside f s s :=
  ⟨h, rfl, .refl s, id⟩

theorem Inside.trans {f : Footprint} {s t u : State} (h : Inside f s t) (h' : Inside f t u) : Inside f s u :=
  ⟨h'.block, commandOnly_closed.trans h.only h'.only, h.outputs.trans h'.outputs, h'.cursor ∘ h.cursor⟩

/-- A part run from s has stayed inside the footprint; what it gives on a good end satisfies Q, and what it raises is a
fatal code. -/
abbrev Res.EndsIn {α : Type} (f : Footprint) (Q : α → State → Prop) (s : State) (r : Res α) : Prop :=
  match r with
  | .ok a t => Q a t ∧ Inside f s t
  | .raised c t => c.fatal = true ∧ Inside f s t
  | .faulted _ => True

/-- From every state whose NBLK the footprint admits, m stays inside the footprint and gives what satisfies Q. -/
def Ensures {α : Type} (f : Footprint) (Q : α → State → Prop) (m : Cmd α) : Prop :=
  ∀ s, f.block (nblkOf s) → (m s).EndsIn f Q s

/-- m stays inside the footprint, whatever it gives. -/
abbrev Stays {α : Type} (f : Footprint) (m : Cmd α) : Prop := Ensures f (fun _ _ => True) m

namespace Ensures

variable {α β : Type} {f : Footprint} {m : Cmd α} {k : α → Cmd β}

theorem of_ok {Q : α → State → Prop} (h : Ensures f Q m) {s t : State} {a : α} (hs : f.block (nblkOf s))
    (e : m s = .ok a t) : Q a t ∧ Inside f s t := by
  have := h s hs; rwa [e] at this

theorem of_raised {Q : α → State → Prop} (h : Ensures f Q m) {s t : State} {c : Code} (hs : f.block (nblkOf s))
    (e : m s = .raised c t) : c.fatal = true ∧ Inside f s t := by
  have := h s hs; rwa [e] at this

theorem weaken {Q Q' : α → State → Prop} (h : Ensures f Q m) (w : ∀ a t, Q a t → Q' a t) : Ensures f Q' m := by
  intro s hs
  cases e : m s with
  | ok a t => exact ⟨w a t (h.of_ok hs e).1, (h.of_ok hs e).2⟩
  | raised c t => exact h.of_raised hs e
  | faulted _ => trivial

theorem stays {Q : α → State → Prop} (h : Ensures f Q m) : Stays f m := h.weaken fun _ _ _ => trivial

theorem pure {Q : α → Prop} {a : α} (h : Q a) : Ensures f (fun b _ => Q b) (Cmd.pure a) := fun _ hs => ⟨h, .refl hs⟩

theorem raise {Q : α → State → Prop} {c : Code} (h : c.fatal = true) : Ensures f Q (Cmd.raise c) :=
  fun _ hs => ⟨h, .refl hs⟩

theorem read (g : State → α) : Stays f (Cmd.read g) := fun _ hs => ⟨trivial, .refl hs⟩

theorem update {Q : State → Prop} {g : State → State} (h : ∀ s, f.block (nblkOf s) → Q (g s) ∧ Inside f s (g s)) :
    Ensures f (fun _ t => Q t) (Cmd.update g) := h

theorem require (p : Prop) [Decidable p] {c : Code} (h : c.fatal = true) :
    Ensures f (fun _ _ => p) (Cmd.require p c) := by
  unfold Cmd.require; split
  · next hp => exact pure hp
  · exact raise h

/-- The rule of a sequence, where what the first part gives is known of its value and of the state it ends in. -/
theorem bind_endsIn {Q : α → State → Prop} {Q' : β → State → Prop} {s : State} (hm : (m s).EndsIn f Q s)
    (hk : ∀ a t, Q a t → f.block (nblkOf t) → (k a t).EndsIn f Q' t) : (m.bind k s).EndsIn f Q' s := by
  cases e : m s with
  | ok a t =>
    rw [e] at hm
    rw [bind_of_ok e]
    have hk := hk a t hm.1 hm.2.block
    cases e' : k a t with
    | ok b u => rw [e'] at hk; exact ⟨hk.1, hm.2.trans hk.2⟩
    | raised c u => rw [e'] at hk; exact ⟨hk.1, hm.2.trans hk.2⟩
    | faulted _ => trivial
  | raised c t => rw [e] at hm; rw [bind_of_raised e]; exact hm
  | faulted _ => rw [bind_of_faulted e]; trivial

/-- The rule of a sequence, where what the first part gives is known of its value. -/
theorem bind {Q : α → Prop} {Q' : β → State → Prop} (hm : Ensures f (fun a _ => Q a) m)
    (hk : ∀ a, Q a → Ensures f Q' (k a)) : Ensures f Q' (m.bind k) :=
  fun s hs => bind_endsIn (hm s hs) fun a t ha ht => hk a ha t ht

theorem andThen {p : Prop} {Q' : β → State → Prop} {k : Cmd β} (hm : Ensures f (fun _ _ => p) m)
    (hk : p → Ensures f Q' k) : Ensures f Q' (m.andThen k) :=
  bind hm fun _ => hk

theorem ite {p : Prop} [Decidable p] {Q : α → State → Prop} {m' : Cmd α} (hm : p → Ensures f Q m)
    (hm' : ¬ p → Ensures f Q m') : Ensures f Q (if p then m else m') := by
  split
  exacts [hm ‹_›, hm' ‹_›]

theorem forRange {body : Nat → Cmd Unit} : ∀ {count first : Nat},
    (∀ i, first ≤ i → i < first + count → Stays f (body i)) → Stays f (Cmd.forRange body count first)
  | 0, _, _ => pure trivial
  | _ + 1, i, h =>
    andThen (h i le_rfl (by omega)) fun _ => forRange fun j h1 h2 => h j (by omega) (by omega)

end Ensures

/-! The cursor. -/

section Cursor

variable {f : Footprint}

theorem CursorOnly.inside {s t : State} (h : CursorOnly s t) (hs : f.block (nblkOf s))
    (hc : CursorSound s → CursorSound t) : Inside f s t := by
  unfold CursorOnly at h
  rw [h] at hc ⊢
  exact ⟨hs, rfl, ⟨.refl _, .refl _, .refl _, .refl _⟩, hc⟩

theorem NoteOnly.inside {s t : State} (h : NoteOnly s t) (hs : f.block (nblkOf s)) : Inside f s t := by
  unfold NoteOnly at h
  rw [h]
  exact ⟨hs, rfl, ⟨.refl _, .refl _, .refl _, .refl _⟩, id⟩

/-- The bits from p on are read, the state kept, or one of their bytes has not been written. -/
theorem peekBits_cases (s : State) : ∀ n p v : Nat,
    (∃ r, r < (v + 1) * 2 ^ n ∧ peekBits n p v s = .ok r s) ∨ ∃ e, peekBits n p v s = .faulted e
  | 0, _, v => .inl ⟨v, by omega, rfl⟩
  | n + 1, p, v => by
    cases hb : cellGet s.buf (p / 8) with
    | none => exact .inr ⟨.undefByte, by simp [peekBits, bitAt, Cmd.bind, memRead, hb]⟩
    | some b =>
      have step : peekBits (n + 1) p v s = peekBits n (p + 1) (2 * v + (b.getLsbD (7 - p % 8)).toNat) s := by
        simp [peekBits, bitAt, Cmd.bind, Cmd.pure, memRead, hb]
      rw [step]
      refine (peekBits_cases s n (p + 1) _).imp (fun ⟨r, hr, e⟩ => ⟨r, hr.trans_le ?_, e⟩) id
      rw [Nat.pow_succ', ← Nat.mul_assoc]
      exact Nat.mul_le_mul_right _ (by have := Bool.toNat_le (b.getLsbD (7 - p % 8)); omega)

theorem advanceOne_cases (s : State) :
    (∃ t, advanceOne s = .ok () t ∧ t.pos = BitVec.ofNat 65 (s.pos.toNat + 1)) ∨ ∃ e, advanceOne s = .faulted e := by
  unfold advanceOne
  by_cases h : (s.pos.toNat + 1) % 8 = 0
  · simp only [h, if_true, Cmd.bind, memRead]
    cases cellGet (setPos (s.pos.toNat + 1) s).buf _
    exacts [.inr ⟨_, rfl⟩, .inl ⟨_, rfl, rfl⟩]
  · exact .inl ⟨_, if_neg h, rfl⟩

/-- Advancing moves the cursor by n bits, or meets a byte that has not been written (R162). -/
theorem advance_cases : ∀ (n : Nat) (s : State),
    (∃ t, advance n s = .ok () t ∧ t.pos.toNat = (s.pos.toNat + n) % 2 ^ 65) ∨ ∃ e, advance n s = .faulted e
  | 0, s => .inl ⟨s, rfl, by have := s.pos.isLt; omega⟩
  | n + 1, s => by
    obtain ⟨t, e, ht⟩ | ⟨d, e⟩ := advanceOne_cases s
    · rw [show advance (n + 1) s = advance n t from andThen_of_ok e]
      refine (advance_cases n t).imp (fun ⟨u, e', hu⟩ => ⟨u, e', ?_⟩) id
      rw [hu, ht, BitVec.toNat_ofNat]
      omega
    · exact .inr ⟨d, andThen_of_faulted e⟩

/-- Advancing to a position inside the buffer. -/
theorem advance_stays_of_le {n : Nat} {s : State} (hs : f.block (nblkOf s))
    (hle : CursorSound s → s.pos.toNat + n ≤ 8 * s.len.toNat) :
    (∃ t, advance n s = .ok () t ∧ Inside f s t) ∨ ∃ e, advance n s = .faulted e := by
  refine (advance_cases n s).imp (fun ⟨t, e, ht⟩ => ⟨t, e, ?_⟩) id
  have only := (advance_keeps n).of_ok e
  refine only.inside hs fun hc => ?_
  have hlen : t.len = s.len := by rw [only]
  have := hle hc
  obtain ⟨hb, -⟩ := hc
  unfold CursorSound Bounded at *
  rw [hlen, ht]
  omega

theorem readBits_ensures (n : Nat) : Ensures f (fun v _ => v < 2 ^ n) (readBits n) := by
  intro s hs
  unfold readBits
  split_ifs with hend
  · exact ⟨rfl, .refl hs⟩
  · obtain ⟨v, hv, e⟩ | ⟨d, e⟩ := peekBits_cases s n s.pos.toNat 0
    · rw [bind_of_ok e]
      obtain ⟨t, e', ht⟩ | ⟨d, e'⟩ := advance_stays_of_le (n := n) hs fun _ => by omega
      · rw [andThen_of_ok e']; exact ⟨by omega, ht⟩
      · rw [andThen_of_faulted e']; trivial
    · rw [bind_of_faulted e]; trivial

theorem readSigned_stays (n : Nat) : Stays f (readSigned n) :=
  .ite (fun _ => .pure trivial) fun _ => .bind (readBits_ensures n) fun _ _ => .pure trivial

/-- The search for a stop bit gives a position before the end of the buffer, and the state is kept (R152). -/
theorem scanUnary_cases (s : State) : ∀ left q : Nat,
    (∃ r, r < q + left ∧ scanUnary left q s = .ok r s) ∨ scanUnary left q s = .raised .malformedStream s ∨
      ∃ e, scanUnary left q s = .faulted e
  | 0, _ => .inr (.inl rfl)
  | n + 1, q => by
    cases hb : cellGet s.buf ((s.pos.toNat + q) / 8) with
    | none => exact .inr (.inr ⟨.undefByte, by simp [scanUnary, bitAt, Cmd.bind, memRead, hb]⟩)
    | some b =>
      have step : scanUnary (n + 1) q s =
          if b.getLsbD (7 - (s.pos.toNat + q) % 8) = s.cfg.unaryStop then .ok q s else scanUnary n (q + 1) s := by
        simp only [scanUnary, bitAt, Cmd.bind, Cmd.pure, memRead, hb]
        split <;> rfl
      rw [step]
      split
      · exact .inl ⟨q, by omega, rfl⟩
      · exact (scanUnary_cases s n (q + 1)).imp (fun ⟨r, hr, e⟩ => ⟨r, by omega, e⟩) id

theorem readUnary_stays : Stays f readUnary := by
  intro s hs
  unfold readUnary
  obtain ⟨q, hq, e⟩ | e | ⟨d, e⟩ := scanUnary_cases s (bitsLeft s) 0
  · rw [bind_of_ok e]
    obtain ⟨t, e', ht⟩ | ⟨d, e'⟩ := advance_stays_of_le (n := q + 1) hs fun _ => by unfold bitsLeft at hq; omega
    · rw [andThen_of_ok e']; exact ⟨trivial, ht⟩
    · rw [andThen_of_faulted e']; trivial
  · rw [bind_of_raised e]; exact ⟨rfl, .refl hs⟩
  · rw [bind_of_faulted e]; trivial

theorem readRice_stays (k : Nat) : Stays f (readRice k) :=
  .bind readUnary_stays fun _ _ => .andThen (.require _ rfl) fun _ =>
  .bind (readBits_ensures k) fun _ _ => .pure trivial

theorem byteAlign_stays : Stays f byteAlign := by
  intro s hs
  unfold byteAlign
  obtain ⟨t, e, ht⟩ | ⟨d, e⟩ := advance_stays_of_le (n := (8 - s.pos.toNat % 8) % 8) hs fun hc => by
    obtain ⟨-, hc⟩ := hc; omega
  · rw [e]; exact ⟨trivial, ht⟩
  · rw [e]; trivial

end Cursor

/-! Registers, RES and SMP. -/

section Operands

variable {f : Footprint}

theorem useRegister_stays (n : Nat) : Stays f (useRegister n) := by
  intro s hs
  unfold useRegister
  cases s.undef.getLsbD n <;> cases s.spoiled.getLsbD n
  exacts [⟨trivial, .refl hs⟩, ⟨trivial, .refl hs⟩, ⟨trivial, NoteOnly.inside rfl hs⟩, trivial]

/-- The checked block size is in range and one the footprint admits (R42). -/
theorem checkedNblk_ensures : Ensures f (fun n _ => f.block n ∧ n ≤ 65535) checkedNblk := by
  have hread : Ensures f (fun n _ => f.block n) (Cmd.read nblkOf) := fun _ hs => ⟨hs, .refl hs⟩
  exact .andThen (useRegister_stays _) fun _ => .bind hread fun _ hn => .andThen (.require _ rfl) fun h =>
    .pure ⟨hn, h.2⟩

theorem readShift_stays : Stays f readShift := .andThen (useRegister_stays _) fun _ => .read _

theorem readQlp_stays (j : Nat) : Stays f (readQlp j) := .andThen (useRegister_stays _) fun _ => .read _

theorem readRes_stays (i : Nat) : Stays f (readRes i) := by
  intro s hs; unfold readRes; cases cellGet s.res i
  exacts [trivial, ⟨trivial, .refl hs⟩]

theorem readSmp_stays (c i : Nat) : Stays f (readSmp c i) := by
  intro s hs; unfold readSmp; cases cellGet s.smp (smpAddress c i)
  exacts [trivial, ⟨trivial, .refl hs⟩]

theorem writeRes_stays {i : Nat} (h : f.res i) (v : Int) : Stays f (writeRes i v) :=
  .update fun _ hs => ⟨trivial, hs, rfl, ⟨.cellSet h _, .refl _, .refl _, .refl _⟩, id⟩

theorem writeSmp_stays {c i : Nat} (h : f.smp (smpAddress c i)) (v : Int) : Stays f (writeSmp c i v) :=
  .update fun _ hs => ⟨trivial, hs, rfl, ⟨.refl _, .cellSet h _, .refl _, .refl _⟩, id⟩

end Operands

/-! The predictor loops. -/

section Predictor

variable {f : Footprint} {c nblk : Nat}

theorem weightedHistory_stays {coefficient : Nat → Cmd Int} (h : ∀ j, Stays f (coefficient j)) (c i : Nat) :
    ∀ count j acc, Stays f (weightedHistory coefficient c i count j acc)
  | 0, _, _ => .pure trivial
  | n + 1, j, _ =>
    .bind (h j) fun _ _ => .bind (readSmp_stays _ _) fun _ _ => weightedHistory_stays h c i n (j + 1) _

theorem fixedPrediction_stays (order c i : Nat) : Stays f (fixedPrediction order c i) :=
  weightedHistory_stays (fun _ => .pure trivial) _ _ _ _ _

theorem lpcPrediction_stays (order shift c i : Nat) : Stays f (lpcPrediction order shift c i) :=
  .bind (weightedHistory_stays readQlp_stays _ _ _ _ _) fun _ _ => .pure trivial

theorem reconstruct_stays {prediction : Nat → Cmd Int} (h : ∀ i, Stays f (prediction i)) (order w : Nat)
    (hs : ∀ i, order ≤ i → i < nblk → f.smp (smpAddress c i)) : Stays f (reconstruct prediction order nblk c w) :=
  .forRange fun i h1 h2 =>
    .bind (readRes_stays _) fun _ _ => .bind (h i) fun _ _ => .andThen (.require _ rfl) fun _ =>
    writeSmp_stays (hs i h1 (by omega)) _

theorem fixedRecon_stays (order w : Nat) (hs : ∀ i, order ≤ i → i < nblk → f.smp (smpAddress c i)) :
    Stays f (fixedRecon order nblk c w) :=
  reconstruct_stays (fixedPrediction_stays order c) _ _ hs

theorem lpcRecon_stays (order shift w : Nat) (hs : ∀ i, order ≤ i → i < nblk → f.smp (smpAddress c i)) :
    Stays f (lpcRecon order shift nblk c w) :=
  reconstruct_stays (lpcPrediction_stays order shift c) _ _ hs

theorem predictorChecks_ensures (order c w : Nat) :
    Ensures f (fun n _ => f.block n ∧ n ≤ 65535) (predictorChecks order c w) :=
  .bind checkedNblk_ensures fun _ hn => .andThen (.require _ rfl) fun _ =>
  .andThen (.forRange fun _ _ _ => .bind (readSmp_stays _ _) fun _ _ => (Ensures.require _ rfl).stays) fun _ => .pure hn

end Predictor

/-! The residual section. -/

section Residual

variable {f : Footprint}

theorem readPartition_stays (pbits esc : Nat) {count idx : Nat} (h : ∀ i, idx ≤ i → i < idx + count → f.res i) :
    Stays f (readPartition pbits esc count idx) :=
  .bind (readBits_ensures _) fun _ _ => .ite
    (fun _ => .bind (readBits_ensures _) fun _ _ => .forRange fun i h1 h2 =>
      .bind (readSigned_stays _) fun _ _ => writeRes_stays (h i h1 h2) _)
    fun _ => .forRange fun i h1 h2 => .bind (readRice_stays _) fun _ _ => writeRes_stays (h i h1 h2) _

/-- The partitions from p on fill RES from idx on, the first of a section shorter by the order (R204). -/
theorem readPartitions_stays (pbits esc : Nat) {psize order : Nat} (ho : order ≤ psize) : ∀ (parts p idx : Nat),
    (∀ i, idx ≤ i → i < idx + (parts * psize - if p = 0 then order else 0) → f.res i) →
      Stays f (readPartitions pbits esc psize order parts p idx)
  | 0, _, _, _ => .pure trivial
  | n + 1, p, idx, h => by
    have hle : (if p = 0 then order else 0) ≤ psize := by split <;> omega
    rw [Nat.succ_mul] at h
    refine .andThen (readPartition_stays _ _ fun i h1 h2 => h i h1 (by omega)) fun _ =>
      readPartitions_stays pbits esc ho n (p + 1) _ fun i h1 h2 => h i (by omega) ?_
    rw [if_neg (Nat.succ_ne_zero p)] at h2
    omega

/-- The residual section writes RES[0..NBLK-order-1] (R204). -/
theorem residualSection_stays {order : Nat} (h : ∀ n, f.block n → n ≤ 65535 → ∀ i, i < n - order → f.res i) :
    Stays f (residualSection order) :=
  .bind checkedNblk_ensures fun n hn =>
  .bind (readBits_ensures _) fun _ _ => .andThen (.require _ rfl) fun _ =>
  .bind (readBits_ensures _) fun porder _ => .andThen (.require _ rfl) fun hdvd => .andThen (.require _ rfl) fun ho =>
  readPartitions_stays _ _ ho _ _ _ fun i _ hi => h n hn.1 hn.2 i <| by
    rw [Nat.mul_div_cancel' (Nat.dvd_of_mod_eq_zero hdvd)] at hi
    simpa using hi

end Residual

/-! The subframe. -/

/-- What SUBF into channel c may touch: RES[0..NBLK-1], SMP[c][0..NBLK-1] and the marks of the SF and QLP registers
(R232). -/
structure Footprint.AllowsSubframe (f : Footprint) (c : Nat) : Prop where
  res : ∀ n, f.block n → n ≤ 65535 → ∀ i, i < n → f.res i
  smp : ∀ n, f.block n → n ≤ 65535 → ∀ i, i < n → f.smp (smpAddress c i)
  sf : ∀ r, 0x30 ≤ r → r ≤ 0x34 → f.marks r
  qlp : ∀ r, 0x40 ≤ r → r ≤ 0x5F → f.marks r

section Subframe

variable {f : Footprint} {c nblk : Nat}

theorem setSubframeHeader_stays (hf : f.AllowsSubframe c) (t order wasted : Nat) :
    Stays f (Cmd.update (setSubframeHeader t order wasted)) :=
  .update fun _ hs => ⟨trivial, hs, rfl, ⟨.refl _, .refl _,
    .clearRange (by omega) fun r h1 h2 => hf.sf r h1 (by omega), .refl _⟩, id⟩

theorem setPrec_stays (hf : f.AllowsSubframe c) (p : Nat) : Stays f (Cmd.update (setPrec p)) :=
  .update fun _ hs => ⟨trivial, hs, rfl, ⟨.refl _, .refl _, .clearMark (hf.sf _ (by omega) (by omega)), .refl _⟩, id⟩

theorem setShift_stays (hf : f.AllowsSubframe c) (v : BitVec 5) : Stays f (Cmd.update (setShift v)) :=
  .update fun _ hs => ⟨trivial, hs, rfl, ⟨.refl _, .refl _, .clearMark (hf.sf _ (by omega) (by omega)), .refl _⟩, id⟩

theorem setQlp_stays (hf : f.AllowsSubframe c) {j : Nat} (hj : j < 32) (v : BitVec 16) :
    Stays f (Cmd.update (setQlp j v)) :=
  .update fun _ hs => ⟨trivial, hs, rfl, ⟨.refl _, .refl _, .clearMark (hf.qlp _ (by omega) (by omega)), .refl _⟩, id⟩

theorem readSamples_stays (ebps : Nat) {count : Nat} (h : ∀ i, i < count → f.smp (smpAddress c i)) :
    Stays f (readSamples c ebps count) :=
  .forRange fun i _ hi => .bind (readSigned_stays _) fun _ _ => writeSmp_stays (h i (by omega)) _

theorem constantBody_stays (ebps : Nat) (h : ∀ i, i < nblk → f.smp (smpAddress c i)) :
    Stays f (constantBody c ebps nblk) :=
  .bind (readSigned_stays _) fun v _ => .forRange fun i _ hi => writeSmp_stays (h i (by omega)) v

theorem Footprint.AllowsSubframe.residualSection_stays (hf : f.AllowsSubframe c) (order : Nat) :
    Stays f (residualSection order) :=
  Machine.residualSection_stays fun n hn hle i hi => hf.res n hn hle i (by omega)

theorem fixedBody_stays (hf : f.AllowsSubframe c) {order : Nat} (ho : order ≤ nblk) (ebps : Nat)
    (h : ∀ i, i < nblk → f.smp (smpAddress c i)) : Stays f (fixedBody order c ebps nblk) :=
  .andThen (readSamples_stays _ fun i hi => h i (by omega)) fun _ =>
  .andThen (hf.residualSection_stays order) fun _ => fixedRecon_stays _ _ fun i _ => h i

theorem lpcBody_stays (hf : f.AllowsSubframe c) {order : Nat} (ho : order ≤ nblk) (ho' : order ≤ 32) (ebps : Nat)
    (h : ∀ i, i < nblk → f.smp (smpAddress c i)) : Stays f (lpcBody order c ebps nblk) :=
  .andThen (readSamples_stays _ fun i hi => h i (by omega)) fun _ =>
  .bind (readBits_ensures _) fun _ _ => .andThen (.require _ rfl) fun _ => .andThen (setPrec_stays hf _) fun _ =>
  .bind (readSigned_stays _) fun _ _ => .andThen (setShift_stays hf _) fun _ => .andThen (.require _ rfl) fun _ =>
  .andThen (.forRange fun j _ hj => .bind (readSigned_stays _) fun _ _ => setQlp_stays hf (by omega) _) fun _ =>
  .andThen (hf.residualSection_stays order) fun _ => lpcRecon_stays _ _ _ fun i _ => h i

theorem readWasted_stays (flag : Bool) : Stays f (readWasted flag) :=
  .ite (fun _ => .bind readUnary_stays fun _ _ => .pure trivial) fun _ => .pure trivial

theorem shiftSamples_stays (wasted : Nat) (h : ∀ i, i < nblk → f.smp (smpAddress c i)) :
    Stays f (shiftSamples c wasted nblk) :=
  .forRange fun i _ hi => .bind (readSmp_stays _ _) fun _ _ => writeSmp_stays (h i (by omega)) _

theorem subframeChecks_ensures (bps : Nat) : Ensures f (fun n _ => f.block n ∧ n ≤ 65535) (subframeChecks bps) :=
  .bind checkedNblk_ensures fun _ hn => .bind (.read _) fun _ _ => .andThen (.require _ rfl) fun _ => .pure hn

theorem lpcOrderCheck_stays (order : Nat) : Stays f (lpcOrderCheck order) :=
  .bind (.read _) fun _ _ => (Ensures.require _ rfl).stays

/-- What a kind of subframe checks and writes stays inside what SUBF may touch, once its order is at most the block
size. -/
structure SubframeKind.StaysIn (k : SubframeKind) (f : Footprint) (c : Nat) : Prop where
  check : Stays f k.check
  body : ∀ ebps nblk, k.order ≤ nblk → (∀ i, i < nblk → f.smp (smpAddress c i)) → Stays f (k.body c ebps nblk)

theorem classify_staysIn (hf : f.AllowsSubframe c) {t : Nat} (ht : t < 64) {k : SubframeKind}
    (h : classify t = some k) : k.StaysIn f c := by
  unfold classify at h
  split_ifs at h <;> cases h
  · exact ⟨.pure trivial, fun _ _ _ hs => constantBody_stays _ hs⟩
  · exact ⟨.pure trivial, fun _ _ _ hs => readSamples_stays _ hs⟩
  · exact ⟨.pure trivial, fun _ _ ho hs => fixedBody_stays hf ho _ hs⟩
  · exact ⟨lpcOrderCheck_stays _, fun _ _ ho hs => lpcBody_stays hf (order := t - 31) ho (by omega) _ hs⟩

theorem subframeRest_stays (hf : f.AllowsSubframe c) {k : SubframeKind} (hk : k.StaysIn f c) (bps t : Nat) (flag : Bool)
    (hs : ∀ i, i < nblk → f.smp (smpAddress c i)) :
    Stays f (subframeRest c bps nblk t k.order flag fun ebps => k.body c ebps nblk) :=
  .bind (readWasted_stays _) fun _ _ => .andThen (.require _ rfl) fun _ => .andThen (.require _ rfl) fun ho =>
  .andThen (setSubframeHeader_stays hf _ _ _) fun _ => .andThen (hk.body _ _ ho hs) fun _ =>
  .ite (fun _ => shiftSamples_stays _ hs) fun _ => .pure trivial

theorem subframe_stays (hf : f.AllowsSubframe c) (bps : Nat) : Stays f (subframe c bps) :=
  .bind (subframeChecks_ensures _) fun n hn => .bind (readBits_ensures _) fun _ _ => .andThen (.require _ rfl) fun _ =>
  .bind (readBits_ensures _) fun t ht => by
    cases h : classify t with
    | none => exact .raise rfl
    | some k =>
      have hk := classify_staysIn hf ht h
      exact .andThen hk.check fun _ => .bind (readBits_ensures _) fun _ _ =>
        subframeRest_stays hf hk _ _ _ (hf.smp n hn.1 hn.2)

theorem subframeWithHeader_stays (hf : f.AllowsSubframe c) {k : SubframeKind} (hk : k.StaysIn f c) (bps t : Nat)
    (flag : Bool) : Stays f (subframeWithHeader c bps t k flag) :=
  .bind (subframeChecks_ensures _) fun n hn => .andThen (readBits_ensures _).stays fun _ =>
  .andThen (readBits_ensures _).stays fun _ => .andThen hk.check fun _ => .andThen (readBits_ensures _).stays fun _ =>
  subframeRest_stays hf hk _ _ _ (hf.smp n hn.1 hn.2)

theorem subframeCommand_stays {body : Cmd Unit} (h : c ≤ 7 → Stays f body) (bps : Nat) :
    Stays f (subframeCommand c bps body) :=
  .andThen (.require _ rfl) fun hc => .andThen (h hc.1) fun _ => .pure trivial

end Subframe

/-! The decorrelator. -/

section Decorrelator

variable {f : Footprint}

theorem decorrelatedPairs_ensures (a bps : Nat) :
    ∀ count i, Ensures f (fun ps _ => ps.length = count) (decorrelatedPairs a bps count i)
  | 0, _ => .pure rfl
  | n + 1, i =>
    .bind (readSmp_stays _ _) fun _ _ => .bind (readSmp_stays _ _) fun _ _ => .andThen (.require _ rfl) fun _ =>
    .bind (decorrelatedPairs_ensures a bps n (i + 1)) fun _ h => .pure (by simp [h])

theorem writePairs_stays : ∀ (pairs : List (Int × Int)) (i : Nat),
    (∀ j, i ≤ j → j < i + pairs.length → f.smp (smpAddress 0 j) ∧ f.smp (smpAddress 1 j)) → Stays f (writePairs pairs i)
  | [], _, _ => .pure trivial
  | _ :: rest, i, h =>
    have hi := h i le_rfl (by simp)
    .andThen (writeSmp_stays hi.1 _) fun _ => .andThen (writeSmp_stays hi.2 _) fun _ =>
      writePairs_stays rest (i + 1) fun j h1 h2 => h j (by omega) (by simp; omega)

/-- DECOR writes channels 0 and 1, and only for the assignments 8 to 10 (R240, R241). -/
theorem decorrelator_stays {a : Nat} (bps : Nat)
    (h : 8 ≤ a → ∀ n, f.block n → n ≤ 65535 → ∀ i, i < n → f.smp (smpAddress 0 i) ∧ f.smp (smpAddress 1 i)) :
    Stays f (decorrelator a bps) :=
  .bind checkedNblk_ensures fun n hn => .ite (fun _ => .pure trivial) fun ha =>
  .bind (decorrelatedPairs_ensures _ _ _ _) fun ps hp =>
  writePairs_stays ps 0 fun i _ hi => h (by omega) n hn.1 hn.2 i (by omega)

end Decorrelator

/-! The frame. -/

/-- What FHDR may touch: any block size, and the marks of the FH registers (R268). -/
structure Footprint.AllowsHeader (f : Footprint) : Prop where
  block : ∀ n, f.block n
  fh : ∀ r, 0x20 ≤ r → r ≤ 0x27 → f.marks r

/-- The channel count is that of an assignment 0..10 (30_encoding.md R125). -/
def ChannelsAssigned (h : FrameHeader) : Prop :=
  h.chAssign.toNat < 11 ∧ h.channels.toNat = channelsOf h.chAssign.toNat

theorem ChannelsAssigned.le_eight {h : FrameHeader} (hc : ChannelsAssigned h) : h.channels.toNat ≤ 8 := by
  obtain ⟨-, hc⟩ := hc
  unfold channelsOf at hc
  split at hc <;> omega

/-- An assignment with a side channel has two channels. -/
theorem ChannelsAssigned.eq_two {h : FrameHeader} (hc : ChannelsAssigned h) (h8 : 8 ≤ h.chAssign.toNat) :
    h.channels.toNat = 2 := by
  obtain ⟨-, hc⟩ := hc
  rw [hc, channelsOf, if_neg (by omega)]

section Frame

variable {f : Footprint}

theorem readNumberTail_stays : ∀ n acc, Stays f (readNumberTail n acc)
  | 0, _ => .pure trivial
  | n + 1, _ =>
    .bind (readBits_ensures _) fun _ _ => .andThen (.require _ rfl) fun _ => readNumberTail_stays n _

theorem readNumber_stays : Stays f readNumber :=
  .bind (readBits_ensures _) fun _ _ =>
  .ite (fun _ => .pure trivial) fun _ => .ite (fun _ => .raise rfl) fun _ =>
  .ite (fun _ => readNumberTail_stays _ _) fun _ => .ite (fun _ => readNumberTail_stays _ _) fun _ =>
  .ite (fun _ => readNumberTail_stays _ _) fun _ => .ite (fun _ => readNumberTail_stays _ _) fun _ =>
  .ite (fun _ => readNumberTail_stays _ _) fun _ => .ite (fun _ => readNumberTail_stays _ _) fun _ => .raise rfl

theorem blockSize_stays (code : Nat) : Stays f (blockSize code) :=
  .ite (fun _ => .pure trivial) fun _ => .ite (fun _ => .pure trivial) fun _ =>
  .ite (fun _ => .bind (readBits_ensures _) fun _ _ => .pure trivial) fun _ =>
  .ite (fun _ => .bind (readBits_ensures _) fun _ _ => .andThen (.require _ rfl) fun _ => .pure trivial) fun _ =>
  .pure trivial

theorem readSiRate_stays : Stays f readSiRate := .andThen (useRegister_stays _) fun _ => .read _
theorem readSiChannels_stays : Stays f readSiChannels := .andThen (useRegister_stays _) fun _ => .read _
theorem readSiBps_stays : Stays f readSiBps := .andThen (useRegister_stays _) fun _ => .read _
theorem readSiMaxBlock_stays : Stays f readSiMaxBlock := .andThen (useRegister_stays _) fun _ => .read _

theorem sampleRate_stays (code : Nat) : Stays f (sampleRate code) := by
  unfold sampleRate
  split
  case h_1 => exact readSiRate_stays
  case h_13 | h_15 => exact .bind (readBits_ensures _) fun _ _ => .pure trivial
  case h_14 => exact (readBits_ensures _).stays
  case h_16 => exact .raise rfl
  all_goals exact .pure trivial

theorem sampleSize_stays (code : Nat) : Stays f (sampleSize code) := by
  unfold sampleSize
  split
  case h_1 => exact readSiBps_stays
  case h_7 => exact .raise rfl
  all_goals exact .pure trivial

theorem setCrcs_stays (c8 : State → BitVec 8) (c16 : State → BitVec 16) :
    Stays f (Cmd.update fun s => setCrcs (c8 s) (c16 s) s) :=
  .update fun _ hs => ⟨trivial, hs, rfl, ⟨.refl _, .refl _, .refl _, .refl _⟩, id⟩

theorem setValid_stays (v : Bool) : Stays f (Cmd.update (setValid v)) :=
  .update fun _ hs => ⟨trivial, hs, rfl, ⟨.refl _, .refl _, .refl _, .refl _⟩, id⟩

theorem setFrameHeader_ensures (hf : f.AllowsHeader) (h : FrameHeader) :
    Ensures f (fun _ t => t.fh = h) (Cmd.update (setFrameHeader h)) :=
  .update fun _ _ => ⟨rfl, hf.block _, rfl, ⟨.refl _, .refl _,
    .clearRange (by omega) fun r h1 h2 => hf.fh r h1 (by omega), .refl _⟩, id⟩

/-- The frame header gives its frame the channels of its assignment (R260, R262). -/
theorem frameHeader_ensures (hf : f.AllowsHeader) : Ensures f (fun _ t => ChannelsAssigned t.fh) frameHeader :=
  .bind (.read _) fun _ _ => .andThen (.require _ rfl) fun _ =>
  .bind (.read _) fun _ _ => .andThen (.require _ rfl) fun _ => .andThen (setCrcs_stays _ _) fun _ =>
  .bind (readBits_ensures _) fun _ _ => .bind (.read _) fun scan _ =>
  .andThen (.require _ (by cases scan <;> rfl)) fun _ =>
  .bind (readBits_ensures _) fun _ _ => .andThen (.require _ rfl) fun _ =>
  .bind (readBits_ensures _) fun _ _ =>
  .bind (readBits_ensures _) fun _ _ => .andThen (.require _ rfl) fun _ =>
  .bind (readBits_ensures _) fun _ _ => .andThen (.require _ rfl) fun _ =>
  .bind (readBits_ensures _) fun chc _ => .andThen (.require _ rfl) fun hchc =>
  .bind (readBits_ensures _) fun _ _ => .andThen (.require _ rfl) fun _ =>
  .bind (readBits_ensures _) fun _ _ => .andThen (.require _ rfl) fun _ =>
  .bind readNumber_stays fun _ _ => .bind (blockSize_stays _) fun _ _ => .bind (sampleRate_stays _) fun _ _ =>
  .bind (.read _) fun _ _ => .bind (readBits_ensures _) fun _ _ => .andThen (.require _ rfl) fun _ =>
  .bind (sampleSize_stays _) fun _ _ => .bind readSiChannels_stays fun _ _ => .bind readSiBps_stays fun _ _ =>
  .andThen (.require _ rfl) fun _ => .bind readSiMaxBlock_stays fun _ _ => .andThen (.require _ rfl) fun _ =>
  .bind (.read _) fun _ _ => .andThen (.require _ rfl) fun _ =>
  .andThen (.update fun s hs => ⟨trivial, by
    split
    exacts [.refl hs, ((setCrcs_stays State.crc8 fun _ => 0).of_ok hs rfl).2]⟩) fun _ =>
  (setFrameHeader_ensures hf _).weaken fun _ t ht => by
    rw [ht]
    have hle : channelsOf chc < 2 ^ 4 := by unfold channelsOf; split <;> omega
    refine ⟨?_, ?_⟩ <;> simp only [BitVec.toNat_ofNat]
    · omega
    · rw [Nat.mod_eq_of_lt hle, Nat.mod_eq_of_lt (by omega)]

/-- The footer ends with OK or IntegrityError (R270). -/
theorem frameFooter_ensures : Ensures f (fun c _ => c.fatal = false) frameFooter :=
  .andThen byteAlign_stays fun _ => .bind (.read _) fun _ _ => .bind (readBits_ensures _) fun _ _ =>
  .ite (fun _ => .andThen (setValid_stays _) fun _ => .pure rfl) fun _ => .andThen (setValid_stays _) fun _ => .pure rfl

/-- FRAME after its header h: the subframes, the footer and the decorrelation (R280). -/
def frameRest (h : FrameHeader) : Cmd Code :=
  (Cmd.forRange (fun c => subframe c (h.bps.toNat + sideBit h.chAssign.toNat c)) h.channels.toNat 0).andThen <|
  frameFooter.bind fun st => (decorrelator h.chAssign.toNat h.bps.toNat).andThen <| Cmd.pure st

theorem frameBody_eq : frameBody = frameHeader.andThen ((Cmd.read fun s => s.fh).bind frameRest) := rfl

/-- After its header FRAME writes what the SUBFs of its channels may write, and ends with OK or IntegrityError. -/
theorem frameRest_ensures {h : FrameHeader} (hc : ChannelsAssigned h)
    (hf : ∀ c, c < h.channels.toNat → f.AllowsSubframe c) : Ensures f (fun c _ => c.fatal = false) (frameRest h) :=
  .andThen (.forRange fun c _ hlt => subframe_stays (hf c (by omega)) _) fun _ =>
  .bind frameFooter_ensures fun _ hst =>
  .andThen (decorrelator_stays _ fun h8 n hn hle i hi =>
    have two := hc.eq_two h8
    ⟨(hf 0 (by omega)).smp n hn hle i hi, (hf 1 (by omega)).smp n hn hle i hi⟩) fun _ =>
  .pure hst

theorem frameBody_ensures (hf : f.AllowsHeader) (hs : ∀ c, c ≤ 7 → f.AllowsSubframe c) :
    Ensures f (fun c _ => c.fatal = false) frameBody := fun s h =>
  Ensures.bind_endsIn (frameHeader_ensures hf s h) fun _ u hc hu =>
    frameRest_ensures hc (fun c hlt => hs c (by have := hc.le_eight; omega)) u hu

end Frame

end Sys2Proof.Machine
end

section
/-! SUPPORT. The invariant: its parts in terms of single marks, and what keeps it. -/

namespace Sys2Proof.Machine

/-! Marks and StreamInfo, register by register. -/

theorem and_eq_zero_iff {w : Nat} (u m : BitVec w) :
    u &&& m = 0 ↔ ∀ n, u.getLsbD n = true → m.getLsbD n = false := by
  constructor
  · intro h n hn
    have := congrArg (fun v => v.getLsbD n) h
    simpa [hn] using this
  · intro h
    refine BitVec.eq_of_getLsbD_eq fun n _ => ?_
    have := h n
    cases hu : u.getLsbD n <;> simp_all

theorem and_not_eq_zero_iff {w : Nat} (u m : BitVec w) :
    u &&& ~~~m = 0 ↔ ∀ n, u.getLsbD n = true → m.getLsbD n = true := by
  rw [and_eq_zero_iff]
  refine forall₂_congr fun n hn => ?_
  simp [BitVec.lt_of_getLsbD hn]

/-- The registers with an UNDEF reset value: StreamInfo and the output registers (R340). -/
theorem getLsbD_undefAtReset (n : Nat) :
    undefAtReset.getLsbD n = decide ((0x10 ≤ n ∧ n ≤ 0x17) ∨ IsOutputRegister n) := by
  have : undefAtReset = markRange 0x10 8 ||| markRange 0x20 8 ||| markRange 0x30 5 ||| markRange 0x40 32 := by decide
  rw [this, Bool.eq_iff_iff]
  simp only [BitVec.getLsbD_or, getLsbD_markRange, Nat.reduceAdd, Nat.reduceLeDiff, Bool.or_eq_true, decide_eq_true_eq]
  omega

theorem marksSound_iff (s : State) : MarksSound s ↔
    (∀ n, s.undef.getLsbD n = true → (0x10 ≤ n ∧ n ≤ 0x17) ∨ IsOutputRegister n) ∧
    ∀ n, s.spoiled.getLsbD n = true → IsOutputRegister n := by
  unfold MarksSound
  rw [and_not_eq_zero_iff, and_not_eq_zero_iff]
  refine and_congr (forall₂_congr fun n _ => by rw [getLsbD_undefAtReset, decide_eq_true_iff]) <|
    forall₂_congr fun n _ => ?_
  rw [getLsbD_clearRange (by omega), getLsbD_undefAtReset]
  simp only [Bool.and_eq_true, Bool.not_eq_true', decide_eq_true_eq, decide_eq_false_iff_not]
  omega

/-- Every StreamInfo register written, and the channel count and the depth in range (R40). -/
theorem streamInfoComplete_iff (s : State) : streamInfoComplete s = true ↔
    (∀ r, 0x10 ≤ r → r ≤ 0x17 → s.undef.getLsbD r = false) ∧
    1 ≤ s.si.channels.toNat ∧ s.si.channels.toNat ≤ 8 ∧ 4 ≤ s.si.bps.toNat ∧ s.si.bps.toNat ≤ 32 := by
  have marks : s.undef &&& markRange 0x10 8 = 0 ↔ ∀ r, 0x10 ≤ r → r ≤ 0x17 → s.undef.getLsbD r = false := by
    rw [BitVec.and_comm, and_eq_zero_iff]
    refine forall_congr' fun r => ?_
    rw [getLsbD_markRange (by omega), decide_eq_true_iff]
    exact ⟨fun h h1 h2 => h (by omega), fun h h' => h h'.1 (by omega)⟩
  simp only [streamInfoComplete, Bool.and_eq_true, decide_eq_true_eq, marks, and_assoc]

/-- v marks no register that u does not, but for output registers. -/
def MarksFrom (u v : BitVec 128) : Prop := ∀ n, v.getLsbD n = true → u.getLsbD n = true ∨ IsOutputRegister n

theorem MarksWithin.marksFrom {u v : BitVec 128} (h : MarksWithin IsOutputRegister u v) : MarksFrom u v := fun n hn =>
  (Classical.em (IsOutputRegister n)).elim .inr fun ho => .inl (h n ho ▸ hn)

theorem marksFrom_clearMark (r : Nat) (u : BitVec 128) : MarksFrom u (clearMark r u) := fun n hn => by
  rw [getLsbD_clearMark, Bool.and_eq_true] at hn; exact .inl hn.1

theorem MarksSound.of_from {s t : State} (h : MarksSound s) (hu : MarksFrom s.undef t.undef)
    (hs : MarksFrom s.spoiled t.spoiled) : MarksSound t := by
  rw [marksSound_iff] at *
  exact ⟨fun n hn => (hu n hn).elim (h.1 n) .inr, fun n hn => (hs n hn).elim (h.2 n) id⟩

/-- StreamInfo stays sound when no StreamInfo register becomes marked. -/
theorem StreamInfoSound.of_from {s t : State} (h : StreamInfoSound s) (hv : t.siValid = s.siValid) (hi : t.si = s.si)
    (hu : MarksFrom s.undef t.undef) : StreamInfoSound t := by
  intro ht
  obtain ⟨marks, ranges⟩ := (streamInfoComplete_iff s).mp (h (hv ▸ ht))
  refine (streamInfoComplete_iff t).mpr ⟨fun r h1 h2 => ?_, hi ▸ ranges⟩
  have := hu r
  rw [marks r h1 h2] at this
  cases hr : t.undef.getLsbD r
  · rfl
  · have := this hr; simp only [Bool.false_eq_true, false_or] at this; omega

/-! Keeping the invariant. -/

/-- A step from s to t keeps the invariant and the parameters. -/
def KeepsInv (s t : State) : Prop := Inv s → Inv t ∧ t.cfg = s.cfg

/-- What every part of a command may touch in any state: entries and registers that exist (R75 to R77, R303). -/
def machineFootprint : Footprint :=
  ⟨fun _ => True, fun a => IsResAddress a, fun a => IsSmpAddress a, fun n => IsOutputRegister n⟩

theorem machineFootprint_allowsSubframe {c : Nat} (hc : c ≤ 7) : machineFootprint.AllowsSubframe c where
  res n _ hn i hi := by show i ≤ 65534; omega
  smp n _ hn i hi := by
    show smpAddress c i / 65536 ≤ 7 ∧ smpAddress c i % 65536 ≤ 65534
    unfold smpAddress
    omega
  sf _ h1 h2 := .inr (.inl ⟨h1, h2⟩)
  qlp _ h1 h2 := .inr (.inr ⟨h1, h2⟩)

theorem machineFootprint_allowsHeader : machineFootprint.AllowsHeader where
  block _ := trivial
  fh _ h1 h2 := .inl ⟨h1, h2⟩

theorem Inv.cursorInBuffer {s : State} (hi : Inv s) : CursorInBuffer s := by
  obtain ⟨-, -, -, hc, -, -, -⟩ := hi; exact hc

theorem Inv.no_snapshot {s : State} (hi : Inv s) : s.snap = none := by
  obtain ⟨-, -, -, -, -, -, h⟩ := hi; exact h

theorem Inv.cursorSound {s : State} (hi : Inv s) : CursorSound s := by
  obtain ⟨⟨-, -, -, -, -, -, -, hmax⟩, -, -, ⟨hpos, hlen⟩, -⟩ := hi
  exact ⟨by unfold Bounded; omega, hpos⟩

/-- RES, SMP and the marks may change as the machine allows, the rest of what the invariant speaks of being kept. -/
theorem Inv.of_outputs {s t : State} (hi : Inv s) (hcfg : t.cfg = s.cfg) (hbuf : t.buf = s.buf)
    (hv : t.siValid = s.siValid) (hsi : t.si = s.si) (hres : CellsFrom (fun a => IsResAddress a) s.res t.res)
    (hsmp : CellsFrom (fun a => IsSmpAddress a) s.smp t.smp) (hu : MarksFrom s.undef t.undef)
    (hsp : MarksFrom s.spoiled t.spoiled) (hc : CursorInBuffer t) (hsnap : t.snap = none) : Inv t := by
  obtain ⟨legal, ⟨wfBuf, wfRes, wfSmp⟩, ⟨inBuf, inRes, inSmp⟩, -, info, marks, -⟩ := hi
  exact ⟨hcfg ▸ legal, ⟨hbuf ▸ wfBuf, hres.wf wfRes, hsmp.wf wfSmp⟩,
    ⟨by rw [hbuf, hcfg]; exact inBuf, fun c hc => (hres.mem c hc).elim (inRes c) id,
      fun c hc => (hsmp.mem c hc).elim (inSmp c) id⟩,
    hc, info.of_from hv hsi hu, marks.of_from hu hsp, hsnap⟩

/-- A command that has stayed inside what the machine allows can be ended anywhere in the buffer. -/
theorem Inside.inv {s t u : State} (h : Inside machineFootprint (beginCommand s) t) (hi : Inv s)
    (hu : u = { t with pos := u.pos, crc8 := u.crc8, crc16 := u.crc16, result := u.result, code := u.code,
                       valid := u.valid, sticky := u.sticky, snap := none })
    (hc : u.pos.toNat ≤ 8 * s.len.toNat) : Inv u ∧ u.cfg = s.cfg := by
  obtain ⟨-, only, outputs, -⟩ := h
  have keeps : u.cfg = s.cfg ∧ u.len = s.len ∧ u.buf = s.buf ∧ u.siValid = s.siValid ∧ u.si = s.si ∧
      u.snap = none := by
    rw [hu, only]; exact ⟨rfl, rfl, rfl, rfl, rfl, rfl⟩
  have outs : u.res = t.res ∧ u.smp = t.smp ∧ u.undef = t.undef ∧ u.spoiled = t.spoiled := by
    rw [hu]; exact ⟨rfl, rfl, rfl, rfl⟩
  obtain ⟨hcfg, hlen, hbuf, hv, hsi, hsnap⟩ := keeps
  obtain ⟨hres, hsmp, hundef, hspoiled⟩ := outs
  refine ⟨hi.of_outputs hcfg hbuf hv hsi (hres ▸ outputs.res.toCellsFrom) (hsmp ▸ outputs.smp.toCellsFrom)
    (hundef ▸ outputs.undef.marksFrom) (hspoiled ▸ outputs.spoiled.marksFrom) ?_ hsnap, hcfg⟩
  exact ⟨hlen ▸ hc, by rw [hlen, hcfg]; exact hi.cursorInBuffer.2⟩

end Sys2Proof.Machine
end

section
/-! SUPPORT. The invariant along a step: the ends of a command, its body, and the accesses of the host. -/

namespace Sys2Proof.Machine

/-- The host's list and a waiting SUBF are nothing to the invariant. -/
theorem KeepsInv.of_host {s t : State} {rest : List HostAccess} {o : Option SubframeOperands}
    (h : KeepsInv { s with inbox := rest, sub := o } t) : KeepsInv s t := h

/-! The ends of a command. -/

theorem CommandOnly.snapOf {s t : State} (h : CommandOnly (beginCommand s) t) : SnapOf s t := by
  rw [SnapOf, h]; rfl

/-- What the fatal end makes of the state u in which a command begun in s has raised c (R302). -/
def restored (c : Code) (valid : Bool) (s u : State) : State :=
  { u with pos := s.pos, crc8 := s.crc8, crc16 := s.crc16, result := s.result, code := c, valid := valid,
           sticky := true, snap := none }

theorem fatalEnd_eq {k : CommandKind} {c : Code} {s u : State} (h : SnapOf s u) :
    fatalEnd k c u = if c = .illegalCommand then restored c u.valid s u
      else undefine k (restored c (!k.clearsValid && u.valid) s u) := by
  rw [fatalEnd, restoreSnapshot_of_snapOf h]
  cases k <;> rfl

theorem CellsFrom.refl {α : Type} {P : Nat → Prop} (m : List (Nat × α)) : CellsFrom P m m := ⟨id, fun _ => .inl⟩

theorem CellsFrom.nil {α : Type} {P : Nat → Prop} (m : List (Nat × α)) : CellsFrom P m [] :=
  ⟨fun _ => rfl, fun _ h => absurd h List.not_mem_nil⟩

theorem MarksFrom.refl (u : BitVec 128) : MarksFrom u u := fun _ => .inl

/-- Entries of RES and SMP becoming UNDEF keep the invariant. -/
theorem Inv.erase {s : State} (hi : Inv s) {res smp : Entries} (hres : CellsFrom (fun a => IsResAddress a) s.res res)
    (hsmp : CellsFrom (fun a => IsSmpAddress a) s.smp smp) : Inv { s with res := res, smp := smp } :=
  hi.of_outputs rfl rfl rfl rfl hres hsmp (.refl _) (.refl _) hi.cursorInBuffer hi.no_snapshot

/-- A failed SUBF marks SF and QLP registers only (R303). -/
theorem undefSubframeRegs_outputsWithin {f : Footprint} {c : Nat} (hf : f.AllowsSubframe c) (s : State) :
    OutputsWithin f s (undefSubframeRegs s) where
  res := .refl _
  smp := .refl _
  undef := (MarksWithin.setRange (by omega) fun r h1 h2 => hf.sf r h1 (by omega)).trans
    (.setRange (by omega) fun r h1 h2 => hf.qlp r h1 (by omega))
  spoiled := (MarksWithin.setRange (by omega) fun r h1 h2 => hf.sf r h1 (by omega)).trans
    (.setRange (by omega) fun r h1 h2 => hf.qlp r h1 (by omega))

/-- A failed FRAME marks FH registers too. -/
theorem undefFrameHeader_outputsWithin {f : Footprint} (hf : f.AllowsHeader) (s : State) :
    OutputsWithin f s (undefFrameHeader s) where
  res := .refl _
  smp := .refl _
  undef := .setRange (by omega) fun r h1 h2 => hf.fh r h1 (by omega)
  spoiled := .setRange (by omega) fun r h1 h2 => hf.fh r h1 (by omega)

theorem undefSubframeRegs_inv {s : State} (hi : Inv s) : Inv (undefSubframeRegs s) := by
  have outputs := undefSubframeRegs_outputsWithin (machineFootprint_allowsSubframe (Nat.zero_le 7)) s
  exact hi.of_outputs rfl rfl rfl rfl (.refl _) (.refl _) outputs.undef.marksFrom outputs.spoiled.marksFrom
    hi.cursorInBuffer hi.no_snapshot

theorem undefFrameHeader_inv {s : State} (hi : Inv s) : Inv (undefFrameHeader s) := by
  have outputs := undefFrameHeader_outputsWithin machineFootprint_allowsHeader s
  exact hi.of_outputs rfl rfl rfl rfl (.refl _) (.refl _) outputs.undef.marksFrom outputs.spoiled.marksFrom
    hi.cursorInBuffer hi.no_snapshot

/-- What R303 makes UNDEF keeps the invariant, whatever the command. -/
theorem undefine_inv (k : CommandKind) {s : State} (hi : Inv s) : Inv (undefine k s) := by
  cases k with
  | plain | footer => exact hi
  | predictor c order => exact hi.erase (.refl _) (.cellErase _ _ _)
  | residual order => exact hi.erase (.cellErase _ _ _) (.refl _)
  | subframe c => exact undefSubframeRegs_inv (hi.erase (.cellErase _ _ _) (.cellErase _ _ _))
  | decorrelator =>
    exact (hi.erase (res := s.res) (.refl _) (.cellErase _ _ _)).erase (.refl _) (.cellErase _ _ _)
  | frame => exact undefFrameHeader_inv (undefSubframeRegs_inv (hi.erase (.nil _) (.nil _)))

theorem undefine_cfg (k : CommandKind) (s : State) : (undefine k s).cfg = s.cfg := by rw [undefine_keeps]

/-- A command whose body stays inside what the machine allows keeps the invariant, whether it ends well or fatally. -/
theorem runCommand_keepsInv {k : CommandKind} {body : Cmd Code} {s t : State} (hb : Stays machineFootprint body)
    (h : runCommand k body s = .next t) : KeepsInv s t := by
  intro hi
  obtain ⟨c, u, e, rfl⟩ | ⟨c, u, e, rfl⟩ := runCommand_next h
  · obtain ⟨-, hu⟩ := hb.of_ok trivial e
    have hlen : u.len = s.len := by rw [hu.only]; rfl
    exact hu.inv hi rfl (hlen ▸ (hu.cursor hi.cursorSound).2)
  · obtain ⟨-, hu⟩ := hb.of_raised trivial e
    have back := fun v => hu.inv (u := restored c v s u) hi rfl hi.cursorSound.2
    rw [fatalEnd_eq hu.only.snapOf]
    split
    · exact back _
    · exact ⟨undefine_inv k (back _).1, (undefine_cfg k _).trans (back true).2⟩

/-! The commands. -/

theorem finishWith_stays {f : Footprint} (v : Word) : Stays f (finishWith v) :=
  .andThen (.update fun _ hs => ⟨trivial, hs, rfl, ⟨.refl _, .refl _, .refl _, .refl _⟩, id⟩) fun _ => .pure trivial

/-- Each subframe header is run as the header of a type code with its kind. -/
theorem exec_header {i : Instr} (h : isSubframeHeader i = true) :
    ∃ t k flag, t < 64 ∧ classify t = some k ∧ ∀ s, exec i s = runHeader t k flag s := by
  cases i <;> cases h
  case sfConstant.refl flag => exact ⟨0, _, flag, by omega, rfl, fun _ => rfl⟩
  case sfVerbatim.refl flag => exact ⟨1, _, flag, by omega, rfl, fun _ => rfl⟩
  case sfFixed0.refl flag => exact ⟨8, _, flag, by omega, rfl, fun _ => rfl⟩
  case sfFixed1.refl flag => exact ⟨9, _, flag, by omega, rfl, fun _ => rfl⟩
  case sfFixed2.refl flag => exact ⟨10, _, flag, by omega, rfl, fun _ => rfl⟩
  case sfFixed3.refl flag => exact ⟨11, _, flag, by omega, rfl, fun _ => rfl⟩
  case sfFixed4.refl flag => exact ⟨12, _, flag, by omega, rfl, fun _ => rfl⟩
  case sfLpc.refl o flag =>
    refine ⟨32 + o.toNat, lpcKind (o.toNat + 1), flag, by omega, ?_, fun _ => rfl⟩
    rw [classify, if_neg (by omega), if_neg (by omega), if_neg (by omega), if_pos (by omega),
      show 32 + o.toNat - 31 = o.toNat + 1 by omega]

/-- A header run in a waiting SUBF is a SUBF command. -/
theorem runHeader_of_sub {t : Nat} {k : SubframeKind} {flag : Bool} {s : State} {o : SubframeOperands}
    (h : s.sub = some o) : runHeader t k flag s =
      runCommand (.subframe o.channel.toNat)
        (subframeCommand o.channel.toNat o.bps.toNat (subframeWithHeader o.channel.toNat o.bps.toNat t k flag))
        { s with sub := none } := by
  rw [runHeader, h]

theorem runHeader_keepsInv {t : Nat} {k : SubframeKind} {flag : Bool} {s u : State} (ht : t < 64)
    (hk : classify t = some k) (h : runHeader t k flag s = .next u) : KeepsInv s u := by
  cases hsub : s.sub with
  | none => rw [runHeader, hsub] at h; cases h
  | some o =>
    rw [runHeader_of_sub hsub] at h
    exact .of_host <| runCommand_keepsInv (subframeCommand_stays (fun hc => subframeWithHeader_stays
      (machineFootprint_allowsSubframe hc) (classify_staysIn (machineFootprint_allowsSubframe hc) ht hk) _ _ _) _) h

/-- Every instruction keeps the invariant. -/
theorem exec_keepsInv (i : Instr) {s t : State} (h : exec i s = .next t) : KeepsInv s t := by
  by_cases hh : isSubframeHeader i = true
  · obtain ⟨code, k, flag, ht, hk, e⟩ := exec_header hh
    exact runHeader_keepsInv ht hk (e s ▸ h)
  cases i with
  | rdb n =>
    exact runCommand_keepsInv (.andThen (.require _ rfl) fun _ => .bind (readBits_ensures _) fun _ _ =>
      finishWith_stays _) h
  | rds n =>
    exact runCommand_keepsInv (.andThen (.require _ rfl) fun _ => .bind (readSigned_stays _) fun _ _ =>
      finishWith_stays _) h
  | rdu => exact runCommand_keepsInv (.bind readUnary_stays fun _ _ => finishWith_stays _) h
  | rdr k =>
    exact runCommand_keepsInv (.andThen (.require _ rfl) fun _ => .bind (readRice_stays _) fun _ _ =>
      finishWith_stays _) h
  | aln => exact runCommand_keepsInv (.andThen byteAlign_stays fun _ => .pure trivial) h
  | gc8 => exact runCommand_keepsInv (k := .plain) (.bind (.read _) fun _ _ => finishWith_stays _) h
  | gc16 => exact runCommand_keepsInv (k := .plain) (.bind (.read _) fun _ _ => finishWith_stays _) h
  | crcr =>
    exact runCommand_keepsInv (k := .plain) (.andThen (setCrcs_stays (fun _ => 0) fun _ => 0) fun _ => .pure trivial) h
  | fixp order c w =>
    refine runCommand_keepsInv (.andThen (.require _ rfl) fun hop => .bind (predictorChecks_ensures _ _ _) fun n hn =>
      .andThen (fixedRecon_stays _ _ fun i _ => ?_) fun _ => .pure trivial) h
    exact (machineFootprint_allowsSubframe hop.2.1).smp n hn.1 hn.2 i
  | lpcp order c w =>
    refine runCommand_keepsInv (.andThen (.require _ rfl) fun hop => .bind (predictorChecks_ensures _ _ _) fun n hn =>
      .bind readShift_stays fun _ _ => .andThen (.require _ rfl) fun _ =>
      .andThen (lpcRecon_stays _ _ _ fun i _ => ?_) fun _ => .pure trivial) h
    exact (machineFootprint_allowsSubframe hop.2.2.1).smp n hn.1 hn.2 i
  | resd order =>
    exact runCommand_keepsInv (.andThen (.require _ rfl) fun _ => .andThen
      ((machineFootprint_allowsSubframe (Nat.zero_le 7)).residualSection_stays _) fun _ => .pure trivial) h
  | subf c bps =>
    exact runCommand_keepsInv
      (subframeCommand_stays (fun hc => subframe_stays (machineFootprint_allowsSubframe hc) _) _) h
  | decor a bps =>
    exact runCommand_keepsInv (.andThen (.require _ rfl) fun _ => .andThen (decorrelator_stays _ fun _ n hn hle i hi =>
      ⟨(machineFootprint_allowsSubframe (by omega)).smp n hn hle i hi,
        (machineFootprint_allowsSubframe (by omega)).smp n hn hle i hi⟩) fun _ => .pure trivial) h
  | fhdr =>
    exact runCommand_keepsInv
      (.andThen (frameHeader_ensures machineFootprint_allowsHeader).stays fun _ => .pure trivial) h
  | fftr => exact runCommand_keepsInv frameFooter_ensures.stays h
  | frame =>
    exact runCommand_keepsInv
      (frameBody_ensures machineFootprint_allowsHeader fun _ => machineFootprint_allowsSubframe).stays h
  | _ => exact absurd rfl hh

/-! The host. -/

theorem writeStatus_keepsInv (v : Word) (s : State) : KeepsInv s (writeStatus v s) := by
  unfold writeStatus
  split
  exacts [fun hi => ⟨hi, rfl⟩, fun hi => ⟨hi, rfl⟩]

/-- SEEK puts the cursor on a byte boundary up to the end of the buffer (R39). -/
theorem writeSeek_keepsInv (v : Word) (s : State) : KeepsInv s (writeSeek v s) := by
  intro hi
  unfold writeSeek
  split
  · next hv =>
    have hb := hi.cursorSound.1
    obtain ⟨legal, wf, inside, ⟨-, hlen⟩, info, marks, hsnap⟩ := hi
    refine ⟨⟨legal, wf, inside, ⟨?_, hlen⟩, info, marks, hsnap⟩, rfl⟩
    show (BitVec.ofNat 65 (8 * v.toNat)).toNat ≤ 8 * s.len.toNat
    unfold Bounded at hb
    rw [BitVec.toNat_ofNat]
    omega
  · exact ⟨hi, rfl⟩

/-- LEN is written only where the cursor stays inside and P_BUF_MAX is respected (R32). -/
theorem writeLen_keepsInv (v : Word) (s : State) : KeepsInv s (writeLen v s) := by
  intro hi
  unfold writeLen
  split
  · next hv =>
    obtain ⟨legal, wf, inside, -, info, marks, hsnap⟩ := hi
    refine ⟨⟨legal, wf, inside, ⟨?_, hv.1⟩, info, marks, hsnap⟩, rfl⟩
    show s.pos.toNat ≤ 8 * v.toNat
    omega
  · exact ⟨hi, rfl⟩

theorem writeStreamInfo_keepsInv (n : Nat) (g : StreamInfo → StreamInfo) (s : State) :
    KeepsInv s (writeStreamInfo n g s) := by
  rintro ⟨legal, wf, inside, cursor, -, marks, hsnap⟩
  exact ⟨⟨legal, wf, inside, cursor, fun h => (Bool.false_ne_true h).elim,
    marks.of_from (marksFrom_clearMark n _) (.refl _), hsnap⟩, rfl⟩

/-- SI_VALID is set over a complete StreamInfo only (R40). -/
theorem writeSiValid_keepsInv (v : Word) (s : State) : KeepsInv s (writeSiValid v s) := by
  rintro ⟨legal, wf, inside, cursor, -, marks, hsnap⟩
  unfold writeSiValid
  split_ifs with h1 h2
  · exact ⟨⟨legal, wf, inside, cursor, fun _ => h2, marks, hsnap⟩, rfl⟩
  all_goals exact ⟨⟨legal, wf, inside, cursor, fun h => (Bool.false_ne_true h).elim, marks, hsnap⟩, rfl⟩

/-- A write to an FH, SF or QLP register keeps the invariant: it only clears the register's mark. -/
theorem clearMark_keepsInv (n : Nat) (s : State) (fh : FrameHeader) (sf : SubframeRegs) (qlp : Vector (BitVec 16) 32) :
    KeepsInv s { s with fh := fh, sf := sf, qlp := qlp, undef := clearMark n s.undef } := fun hi =>
  ⟨hi.of_outputs rfl rfl rfl rfl (.refl _) (.refl _) (marksFrom_clearMark n _) (.refl _) hi.cursorInBuffer
    hi.no_snapshot, rfl⟩

theorem registerWrite_keepsInv (n : Nat) (v : Word) (s : State) : KeepsInv s (registerWrite n v s) := by
  unfold registerWrite
  split
  case h_1 => exact writeStatus_keepsInv v s
  case h_2 => exact fun hi => ⟨hi, rfl⟩
  case h_3 => exact writeSeek_keepsInv v s
  case h_4 => exact writeLen_keepsInv v s
  case h_13 => exact writeSiValid_keepsInv v s
  case h_22 => exact clearMark_keepsInv _ s _ _ _
  case h_23 =>
    split
    exacts [clearMark_keepsInv _ s _ _ _, fun hi => ⟨hi, rfl⟩]
  case h_5 | h_6 | h_7 | h_8 | h_9 | h_10 | h_11 | h_12 => exact writeStreamInfo_keepsInv _ _ s
  all_goals exact clearMark_keepsInv _ s _ _ _

theorem cellSet_from {α : Type} {P : Nat → Prop} {m : List (Nat × α)} {a : Nat} (h : P a) (v : α) :
    CellsFrom P m (cellSet m a v) :=
  (CellsWithin.cellSet h v).toCellsFrom

theorem writeBuf_keepsInv {a : Nat} (b : Byte) {s : State} (ha : a < s.cfg.bufMax) :
    KeepsInv s { s with buf := cellSet s.buf a b } := by
  rintro ⟨legal, ⟨wfBuf, wfRes, wfSmp⟩, ⟨inBuf, inRes, inSmp⟩, cursor, info, marks, hsnap⟩
  exact ⟨⟨legal, ⟨cellsWf_cellSet wfBuf _ _, wfRes, wfSmp⟩,
    ⟨fun c hc => (mem_cellSet hc).elim (fun e => e ▸ ha) (inBuf c), inRes, inSmp⟩, cursor, info, marks, hsnap⟩, rfl⟩

theorem reset_marksSound : MarksSound State.reset := ⟨by decide, by decide⟩

theorem resetCore_keepsInv (s : State) : KeepsInv s (resetCore s) := by
  rintro ⟨legal, -⟩
  exact ⟨⟨legal, reset_memory_wf, ⟨by simp [resetCore, State.reset], by simp [resetCore, State.reset],
    by simp [resetCore, State.reset]⟩, ⟨by simp [resetCore, State.reset], by simp [resetCore, State.reset]⟩,
    fun h => (Bool.false_ne_true h).elim, reset_marksSound, rfl⟩, rfl⟩

/-- Every access of the host keeps the invariant. -/
theorem hostAccess_keepsInv (a : HostAccess) {s t : State} (h : hostAccess a s = .next t) : KeepsInv s t := by
  cases a with
  | writeRegister n v => cases h; exact registerWrite_keepsInv _ _ s
  | readRegister n => cases h; exact fun hi => ⟨hi, rfl⟩
  | writeBuf a b =>
    simp only [hostAccess] at h
    split_ifs at h with ha
    cases h
    exact writeBuf_keepsInv b ha
  | readBuf a =>
    simp only [hostAccess] at h
    split_ifs at h
    cases h
    exact fun hi => ⟨hi, rfl⟩
  | writeRes a v =>
    cases h
    split_ifs with ha
    exacts [fun hi => ⟨hi.erase (smp := s.smp) (cellSet_from ha v) (.refl _), rfl⟩, fun hi => ⟨hi, rfl⟩]
  | readRes a => cases h; exact fun hi => ⟨hi, rfl⟩
  | writeSmp a v =>
    cases h
    split_ifs with ha
    exacts [fun hi => ⟨hi.erase (res := s.res) (.refl _) (cellSet_from ha v), rfl⟩, fun hi => ⟨hi, rfl⟩]
  | readSmp a => cases h; exact fun hi => ⟨hi, rfl⟩
  | reset => cases h; exact resetCore_keepsInv s

/-- A refused command word keeps the invariant. -/
theorem illegalWord_keepsInv {s t : State} (h : illegalWord s = .next t) : KeepsInv s t :=
  runCommand_keepsInv (.raise rfl) h

theorem step_keepsInv {s t : State} (h : step s = .next t) : KeepsInv s t := by
  unfold step at h
  obtain ⟨o, -, e⟩ | ⟨-, -, e⟩ | ⟨v, rest, -, -, e⟩ | ⟨a, rest, -, -, -, e⟩ := fetch_cases s <;> rw [e] at h
  · obtain ⟨b, i, -, -, e⟩ | e := fetchHeader_cases o s <;> rw [e] at h
    · exact exec_keepsInv i h
    · exact .of_host (exec_keepsInv _ h)
  · cases h; exact fun hi => ⟨hi, rfl⟩
  · obtain ⟨i, -, -, e⟩ | e := issue_cases v { s with inbox := rest } <;> rw [e] at h
    · exact .of_host (exec_keepsInv i h)
    · exact .of_host (illegalWord_keepsInv h)
  · exact .of_host (hostAccess_keepsInv a h)

end Sys2Proof.Machine

open Sys2Proof Sys2Proof.Machine

/-- Settles O55: commands stay inside the machine's footprint, a fatal end restores the cursor and only removes entries
and marks output registers, and each host access is checked by itself. -/
theorem stepKeepsInvariant : Obligations.StepKeepsInvariant := fun _ _ hi h => step_keepsInv h hi

end

section
/-! SUPPORT. The frames of whole commands: what of RES, SMP and the marks a command leaves alone, whether it ends well or
fatally. -/

namespace Sys2Proof.Machine

/-- What holds of a command's body and of what R303 makes UNDEF holds of the command. -/
theorem runCommand_outputsWithin {f : Footprint} {k : CommandKind} {body : Cmd Code} {s t : State} (hb : Stays f body)
    (hs : f.block (nblkOf s)) (hk : ∀ u, f.block (nblkOf u) → OutputsWithin f u (undefine k u))
    (h : runCommand k body s = .next t) : OutputsWithin f s t := by
  obtain ⟨c, u, e, rfl⟩ | ⟨c, u, e, rfl⟩ := runCommand_next h
  · obtain ⟨res, smp, undef, spoiled⟩ := (hb.of_ok (s := beginCommand s) hs e).2.outputs
    exact ⟨res, smp, undef, spoiled⟩
  · obtain ⟨hblock, only, ⟨res, smp, undef, spoiled⟩, -⟩ := (hb.of_raised (s := beginCommand s) hs e).2
    rw [fatalEnd_eq only.snapOf]
    split
    · exact ⟨res, smp, undef, spoiled⟩
    · have ended : OutputsWithin f s (restored c (!k.clearsValid && u.valid) s u) := ⟨res, smp, undef, spoiled⟩
      exact ended.trans (hk _ hblock)

/-- How a command whose body keeps R can end: well, with IllegalCommand, or fatally with what R303 makes UNDEF. -/
theorem runCommand_ends {R : State → State → Prop} {k : CommandKind} {body : Cmd Code} {s t : State} (hk : Keeps R body)
    (hsnap : ∀ {u}, R (beginCommand s) u → SnapOf s u) (h : runCommand k body s = .next t) :
    ∃ c u, R (beginCommand s) u ∧ (t = endCommand c u ∨ t = restored c u.valid s u ∨
      t = undefine k (restored c (!k.clearsValid && u.valid) s u)) := by
  obtain ⟨c, u, e, rfl⟩ | ⟨c, u, e, rfl⟩ := runCommand_next h
  · exact ⟨c, u, hk.of_ok e, .inl rfl⟩
  · refine ⟨c, u, hk.of_raised e, .inr ?_⟩
    rw [fatalEnd_eq (hsnap (hk.of_raised e))]
    split
    exacts [.inl rfl, .inr rfl]

/-! The cursor commands. -/

/-- Only the cursor, the CRCs and RESULT may differ. -/
def ResultOnly (s t : State) : Prop := t = { s with pos := t.pos, crc8 := t.crc8, crc16 := t.crc16, result := t.result }

theorem resultOnly_closed : Closed ResultOnly where
  refl _ := rfl
  trans h1 h2 := by unfold ResultOnly at *; rw [h2, h1]

theorem CursorOnly.result {s t : State} (h : CursorOnly s t) : ResultOnly s t := by
  unfold CursorOnly ResultOnly at *; rw [h]

theorem ResultOnly.snapOf {s t : State} (h : ResultOnly (beginCommand s) t) : SnapOf s t := by
  rw [SnapOf, h]; rfl

theorem finishWith_keeps (v : Word) : Keeps ResultOnly (finishWith v) :=
  .andThen resultOnly_closed (.update fun _ => rfl) (.pure resultOnly_closed _)

/-- The shape of RDB, RDS and RDR: the word check, a read of the cursor, and its value into RESULT. -/
theorem readInto_result_keeps {α : Type} {p : Prop} [Decidable p] {m : Cmd α} (hm : Keeps CursorOnly m) (g : α → Word) :
    Keeps ResultOnly ((operandCheck p).andThen (m.bind fun v => finishWith (g v))) :=
  .andThen resultOnly_closed (.require resultOnly_closed _ _) <|
  .bind resultOnly_closed (hm.mono fun _ _ => CursorOnly.result) fun _ => finishWith_keeps _

/-- A command whose parts write the cursor, the CRCs and RESULT changes beside them CODE and STICKY only. -/
theorem runCommand_plain_frame {body : Cmd Code} {s t : State} (hk : Keeps ResultOnly body)
    (h : runCommand .plain body s = .next t) :
    t = { s with pos := t.pos, crc8 := t.crc8, crc16 := t.crc16, result := t.result, code := t.code,
                 sticky := t.sticky, snap := none } := by
  obtain ⟨c, u, hu, rfl | rfl | rfl⟩ := runCommand_ends hk ResultOnly.snapOf h <;> (rw [hu]; rfl)

/-- One whose parts do not write RESULT keeps it. -/
theorem runCommand_keeps_result {k : CommandKind} {body : Cmd Code} {s t : State} (hk : Keeps CursorOnly body)
    (h : runCommand k body s = .next t) : t.result = s.result := by
  obtain ⟨c, u, e, rfl⟩ | ⟨c, u, e, rfl⟩ := runCommand_next h
  · rw [hk.of_ok e]; rfl
  · obtain ⟨-, -, -, hresult, -⟩ := fatalEnd_restores (k := k) (c := c) (hk.of_raised e).snapOf
    exact hresult

/-! RESD. -/

/-- What RESD of an order may touch where NBLK is nblk: RES[0..NBLK-order-1] (R204). -/
def residualFootprint (order nblk : Nat) : Footprint :=
  ⟨fun n => n = nblk, fun i => i < nblk - order, fun _ => False, fun _ => False⟩

theorem undefine_residual_outputsWithin (order nblk : Nat) (u : State) (hu : nblkOf u = nblk) :
    OutputsWithin (residualFootprint order nblk) u (undefine (.residual order) u) :=
  ⟨.cellErase fun x _ hx => show x < nblk - order by omega, .refl _, .refl _, .refl _⟩

/-! SUBF and the subframe headers. -/

/-- What SUBF into channel c may touch where NBLK is nblk (R232). -/
def subframeFootprint (c nblk : Nat) : Footprint :=
  ⟨fun n => n = nblk, fun i => i < nblk, fun x => smpAddress c 0 ≤ x ∧ x < smpAddress c 0 + nblk,
    fun r => (0x30 ≤ r ∧ r ≤ 0x34) ∨ (0x40 ≤ r ∧ r ≤ 0x5F)⟩

theorem smpAddress_eq_add (c i : Nat) : smpAddress c i = smpAddress c 0 + i := by simp [smpAddress]

theorem subframeFootprint_allows (c nblk : Nat) : (subframeFootprint c nblk).AllowsSubframe c where
  res n hn _ i hi := show i < nblk from hn ▸ hi
  smp n hn _ i hi := by
    show smpAddress c 0 ≤ smpAddress c i ∧ smpAddress c i < smpAddress c 0 + nblk
    have hn : n = nblk := hn
    rw [smpAddress_eq_add c i]
    omega
  sf _ h1 h2 := .inl ⟨h1, h2⟩
  qlp _ h1 h2 := .inr ⟨h1, h2⟩

theorem undefine_subframe_outputsWithin (c nblk : Nat) (u : State) (hu : nblkOf u = nblk) :
    OutputsWithin (subframeFootprint c nblk) u (undefine (.subframe c) u) := by
  have erased : OutputsWithin (subframeFootprint c nblk) u (undefSmp c 0 (nblkOf u) (undefRes 0 (nblkOf u) u)) :=
    ⟨.cellErase fun x _ hx => show x < nblk by omega, .cellErase fun x h1 h2 => ⟨h1, hu ▸ h2⟩, .refl _, .refl _⟩
  exact erased.trans (undefSubframeRegs_outputsWithin (subframeFootprint_allows c nblk) _)

/-- What a command that runs as SUBF into channel c leaves unchanged (R50, R232). -/
def SubframeFrame (c : Nat) (s t : State) : Prop :=
  t = { s with pos := t.pos, crc8 := t.crc8, crc16 := t.crc16, sf := t.sf, qlp := t.qlp, undef := t.undef,
               spoiled := t.spoiled, undefRead := t.undefRead, res := t.res, smp := t.smp, code := t.code,
               sticky := t.sticky, freeCtr := t.freeCtr, sub := t.sub, snap := none } ∧
  SameOutside s.res t.res 0 (nblkOf s) ∧ SameOutside s.smp t.smp (smpAddress c 0) (nblkOf s) ∧
  (∀ n, ¬ (0x30 ≤ n ∧ n ≤ 0x34) → ¬ (0x40 ≤ n ∧ n ≤ 0x5F) →
    t.undef.getLsbD n = s.undef.getLsbD n ∧ t.spoiled.getLsbD n = s.spoiled.getLsbD n)

theorem SubframeFrame.of_waiting {c : Nat} {s t : State} {o : Option SubframeOperands}
    (h : SubframeFrame c { s with sub := o } t) : SubframeFrame c s t := h

/-- The record part of SUBF's frame. -/
theorem runCommand_subframe_only {c : Nat} {body : Cmd Code} {s t : State} (hk : Keeps SubframeOnly body)
    (h : runCommand (.subframe c) body s = .next t) :
    t = { s with pos := t.pos, crc8 := t.crc8, crc16 := t.crc16, sf := t.sf, qlp := t.qlp, undef := t.undef,
                 spoiled := t.spoiled, undefRead := t.undefRead, res := t.res, smp := t.smp, code := t.code,
                 sticky := t.sticky, freeCtr := t.freeCtr, snap := none } := by
  obtain ⟨c, u, hu, rfl | rfl | rfl⟩ := runCommand_ends hk SubframeOnly.snapOf h <;> (rw [hu]; rfl)

theorem subframeCommand_keeps (c bps : Nat) {body : Cmd Unit} (h : Keeps SubframeOnly body) :
    Keeps SubframeOnly (subframeCommand c bps body) :=
  .andThen subframeOnly_closed (.require subframeOnly_closed _ _) <|
  .andThen subframeOnly_closed h (.pure subframeOnly_closed _)

theorem runCommand_subframe_frame {c bps : Nat} {body : Cmd Unit} {s t : State} (hk : Keeps SubframeOnly body)
    (hb : ∀ f : Footprint, f.AllowsSubframe c → Stays f body)
    (h : runCommand (.subframe c) (subframeCommand c bps body) s = .next t) : SubframeFrame c s t := by
  have only := runCommand_subframe_only (subframeCommand_keeps c bps hk) h
  have outputs := runCommand_outputsWithin
    (subframeCommand_stays (fun _ => hb _ (subframeFootprint_allows c (nblkOf s))) bps) rfl
    (undefine_subframe_outputsWithin c (nblkOf s)) h
  obtain ⟨res, smp, undef, spoiled⟩ := outputs
  refine ⟨by rw [only], res.sameOutside fun x hx => ⟨Nat.zero_le x, by rwa [Nat.zero_add]⟩,
    smp.sameOutside fun _ => id, fun n h1 h2 => ?_⟩
  have hn : ¬ ((0x30 ≤ n ∧ n ≤ 0x34) ∨ (0x40 ≤ n ∧ n ≤ 0x5F)) := by omega
  exact ⟨undef n hn, spoiled n hn⟩

/-! FHDR, FFTR and FRAME. -/

/-- What FHDR may touch: the FH marks. -/
def headerFootprint : Footprint := ⟨fun _ => True, fun _ => False, fun _ => False, fun r => 0x20 ≤ r ∧ r ≤ 0x27⟩

theorem headerFootprint_allows : headerFootprint.AllowsHeader where
  block _ := trivial
  fh _ h1 h2 := ⟨h1, h2⟩

/-- What FRAME may touch however it ends. -/
def frameFootprint : Footprint := ⟨fun _ => True, fun _ => True, fun _ => True, fun n => IsOutputRegister n⟩

theorem frameFootprint_allowsHeader : frameFootprint.AllowsHeader where
  block _ := trivial
  fh _ h1 h2 := .inl ⟨h1, h2⟩

theorem frameFootprint_allowsSubframe (c : Nat) : frameFootprint.AllowsSubframe c where
  res _ _ _ _ _ := trivial
  smp _ _ _ _ _ := trivial
  sf _ h1 h2 := .inr (.inl ⟨h1, h2⟩)
  qlp _ h1 h2 := .inr (.inr ⟨h1, h2⟩)

theorem undefine_frame_outputsWithin (u : State) : OutputsWithin frameFootprint u (undefine .frame u) := by
  have erased : OutputsWithin frameFootprint u { u with res := [], smp := [] } :=
    ⟨⟨.nil _, fun _ h => (h trivial).elim⟩, ⟨.nil _, fun _ h => (h trivial).elim⟩, .refl _, .refl _⟩
  exact (erased.trans (undefSubframeRegs_outputsWithin (frameFootprint_allowsSubframe 0) _)).trans
    (undefFrameHeader_outputsWithin frameFootprint_allowsHeader _)

/-- What FRAME may touch after its header h: the blocks of the frame's own channels. -/
def channelsFootprint (h : FrameHeader) : Footprint :=
  ⟨fun n => n = h.blockSize.toNat, fun i => i < h.blockSize.toNat,
    fun x => ∃ c, c < h.channels.toNat ∧ ¬ OutsideBlock c h.blockSize.toNat x, fun n => IsOutputRegister n⟩

theorem channelsFootprint_allows {h : FrameHeader} {c : Nat} (hc : c < h.channels.toNat) :
    (channelsFootprint h).AllowsSubframe c where
  res n hn _ i hi := show i < h.blockSize.toNat from hn ▸ hi
  smp n hn _ i hi := ⟨c, hc, by
    have hn : n = h.blockSize.toNat := hn
    unfold OutsideBlock smpAddress
    omega⟩
  sf _ h1 h2 := .inr (.inl ⟨h1, h2⟩)
  qlp _ h1 h2 := .inr (.inr ⟨h1, h2⟩)

/-- Only what FRAME writes after its header may differ. -/
def FrameRestOnly (s t : State) : Prop :=
  t = { s with pos := t.pos, crc8 := t.crc8, crc16 := t.crc16, sf := t.sf, qlp := t.qlp, undef := t.undef,
               res := t.res, smp := t.smp, undefRead := t.undefRead, valid := t.valid }

/-- Only what FRAME writes may differ. -/
def FrameOnly (s t : State) : Prop :=
  t = { s with pos := t.pos, crc8 := t.crc8, crc16 := t.crc16, fh := t.fh, sf := t.sf, qlp := t.qlp, undef := t.undef,
               res := t.res, smp := t.smp, undefRead := t.undefRead, valid := t.valid }

theorem frameRestOnly_closed : Closed FrameRestOnly where
  refl _ := rfl
  trans h1 h2 := by unfold FrameRestOnly at *; rw [h2, h1]

theorem frameOnly_closed : Closed FrameOnly where
  refl _ := rfl
  trans h1 h2 := by unfold FrameOnly at *; rw [h2, h1]

theorem SubframeOnly.frameRest {s t : State} (h : SubframeOnly s t) : FrameRestOnly s t := by
  unfold SubframeOnly FrameRestOnly at *; rw [h]

theorem FooterOnly.frameRest {s t : State} (h : FooterOnly s t) : FrameRestOnly s t := by
  unfold FooterOnly FrameRestOnly at *; rw [h]

theorem FrameRestOnly.frame {s t : State} (h : FrameRestOnly s t) : FrameOnly s t := by
  unfold FrameRestOnly FrameOnly at *; rw [h]

theorem HeaderOnly.frame {s t : State} (h : HeaderOnly s t) : FrameOnly s t := by
  unfold HeaderOnly FrameOnly at *; rw [h]

theorem FrameOnly.snapOf {s t : State} (h : FrameOnly (beginCommand s) t) : SnapOf s t := by
  rw [SnapOf, h]; rfl

theorem frameRest_keeps (h : FrameHeader) : Keeps FrameRestOnly (frameRest h) :=
  .andThen frameRestOnly_closed
    (.forRange frameRestOnly_closed fun _ _ _ => (subframe_keeps _ _).mono fun _ _ => SubframeOnly.frameRest) <|
  .bind frameRestOnly_closed (frameFooter_keeps.mono fun _ _ => FooterOnly.frameRest) fun _ =>
  .andThen frameRestOnly_closed ((decorrelator_keeps _ _).mono fun _ _ h => h.subframe.frameRest)
    (.pure frameRestOnly_closed _)

theorem frameBody_keeps : Keeps FrameOnly frameBody :=
  .andThen frameOnly_closed (frameHeader_keeps.mono fun _ _ => HeaderOnly.frame) <|
  .bind frameOnly_closed (.read frameOnly_closed _) fun h => (frameRest_keeps h).mono fun _ _ => FrameRestOnly.frame

/-- The record part of FRAME's frame. -/
theorem execFrame_only {s t : State} (h : execFrame s = .next t) :
    t = { s with pos := t.pos, crc8 := t.crc8, crc16 := t.crc16, fh := t.fh, sf := t.sf, qlp := t.qlp,
                 undef := t.undef, spoiled := t.spoiled, undefRead := t.undefRead, res := t.res, smp := t.smp,
                 valid := t.valid, code := t.code, sticky := t.sticky, freeCtr := t.freeCtr, snap := none } := by
  obtain ⟨c, u, hu, rfl | rfl | rfl⟩ := runCommand_ends frameBody_keeps FrameOnly.snapOf h <;> (rw [hu]; rfl)

/-- A FRAME that does not end fatally ran its header and then the rest over that header. -/
theorem execFrame_notFatal {s t : State} (h : execFrame s = .next t) (hc : t.code.fatal = false) :
    ∃ u v, Inside headerFootprint (beginCommand s) u ∧ Inside (channelsFootprint u.fh) u v ∧ v.fh = u.fh ∧
      t = endCommand t.code v := by
  obtain ⟨c, v, e, rfl⟩ | ⟨c, v, e, rfl⟩ := runCommand_next h
  · rw [frameBody_eq] at e
    obtain ⟨⟨⟩, u, eu, ev⟩ := andThen_eq_ok.mp e
    rw [read_bind] at ev
    obtain ⟨assigned, hu⟩ := (frameHeader_ensures headerFootprint_allows).of_ok trivial eu
    have hv := ((frameRest_ensures assigned fun c hc => channelsFootprint_allows hc).of_ok rfl ev).2
    exact ⟨u, v, hu, hv, by rw [(frameRest_keeps _).of_ok ev], rfl⟩
  · obtain ⟨-, -, -, -, hcode, -⟩ := fatalEnd_restores (k := .frame) (c := c) (frameBody_keeps.of_raised e).snapOf
    rw [hcode] at hc
    have fatal := ((frameBody_ensures frameFootprint_allowsHeader fun c _ => frameFootprint_allowsSubframe c).of_raised
      trivial e).1
    rw [hc] at fatal
    cases fatal

/-! NBLK out of range. -/

/-- NBLK out of range is IllegalCommand, and a model fault is recorded where nothing has written it since reset (R42,
log 4). -/
theorem checkedNblk_of_outOfRange {s : State} (hu : LeftUndef s 0x21 = false) (h : nblkOf s = 0 ∨ 65535 < nblkOf s) :
    checkedNblk s =
      .raised .illegalCommand { s with undefRead := s.undefRead || s.undef.getLsbD 0x21 } := by
  have hn : ¬ (1 ≤ nblkOf s ∧ nblkOf s ≤ 65535) := by omega
  cases hd : s.undef.getLsbD 0x21 with
  | false => rw [checkedNblk_of_not hd hn, Bool.or_false]
  | true =>
    have hsp : s.spoiled.getLsbD 0x21 = false := by simpa [LeftUndef, hd] using hu
    have hn' : ¬ (1 ≤ nblkOf { s with undefRead := true } ∧ nblkOf { s with undefRead := true } ≤ 65535) := hn
    rw [checkedNblk, andThen_of_ok (useRegister_of_unwritten hd hsp), read_bind, require_of_not hn', Bool.or_true]
    rfl

/-- A command that raises IllegalCommand with at most a model fault recorded changes CODE, STICKY and that record
only. -/
theorem runCommand_illegal_of_note {k : CommandKind} {body : Cmd Code} {s : State} {b : Bool}
    (h : body (beginCommand s) = .raised .illegalCommand (beginCommand { s with undefRead := b })) :
    runCommand k body s = .next (failed .illegalCommand { s with undefRead := b }) := by
  rw [runCommand_of_raised h, fatalEnd_eq (snapOf_beginCommand _), if_pos rfl]; rfl

/-- A command whose operands are in range and whose next part is refused for its NBLK. -/
theorem runCommand_nblk_outOfRange {k : CommandKind} {p : Prop} [Decidable p] {rest : Cmd Code} {s : State} (hp : p)
    (hrest : ∀ t, checkedNblk (beginCommand s) = .raised .illegalCommand t →
      rest (beginCommand s) = .raised .illegalCommand t)
    (hu : LeftUndef s 0x21 = false) (h : nblkOf s = 0 ∨ 65535 < nblkOf s) :
    runCommand k ((operandCheck p).andThen rest) s =
      .next (failed .illegalCommand { s with undefRead := s.undefRead || s.undef.getLsbD 0x21 }) := by
  refine runCommand_illegal_of_note ?_
  rw [operandCheck, require_of hp, pure_andThen]
  exact hrest _ (checkedNblk_of_outOfRange hu h)

end Sys2Proof.Machine

open Sys2Proof Sys2Proof.Machine

/-- Settles O16: GC8, GC16 and CRCR by their exact next states, the others by what their parts may write; ALN's write no
RESULT. -/
theorem cursorCommandsFrame : Obligations.CursorCommandsFrame := by
  intro i s t hi h
  cases i <;> cases hi
  case rdb.refl n =>
    exact ⟨runCommand_plain_frame (readInto_result_keeps (readBits_keeps _) _) h, by simp, by simp, by simp⟩
  case rds.refl n =>
    exact ⟨runCommand_plain_frame (readInto_result_keeps (readSigned_keeps _) _) h, by simp, by simp, by simp⟩
  case rdr.refl k =>
    exact ⟨runCommand_plain_frame (readInto_result_keeps (readRice_keeps _) _) h, by simp, by simp, by simp⟩
  case rdu.refl =>
    have keeps : Keeps ResultOnly (readUnary.bind fun q => finishWith (BitVec.ofNat 64 q)) :=
      .bind resultOnly_closed (readUnary_keeps.mono fun _ _ => CursorOnly.result) fun _ => finishWith_keeps _
    exact ⟨runCommand_plain_frame keeps h, by simp, by simp, by simp⟩
  case aln.refl =>
    have keeps : Keeps CursorOnly (byteAlign.andThen (Cmd.pure Code.ok)) :=
      .andThen cursorOnly_closed byteAlign_keeps (.pure cursorOnly_closed _)
    exact ⟨runCommand_plain_frame (keeps.mono fun _ _ => CursorOnly.result) h, by simp, by simp,
      fun _ => runCommand_keeps_result keeps h⟩
  case gc8.refl | gc16.refl => cases h; exact ⟨rfl, fun _ => rfl, fun _ => ⟨rfl, rfl⟩, by simp⟩
  case crcr.refl => cases h; exact ⟨rfl, fun _ => rfl, by simp, fun _ => rfl⟩

/-- Settles O20: each command checks its operands and then NBLK, before anything else. -/
theorem nblkOutOfRangeIsIllegal : Obligations.NblkOutOfRangeIsIllegal := by
  refine fun i s hu hn hi => ⟨?command, fun o hh hsub => ?header⟩
  case command =>
    rintro (⟨order, c, w, rfl⟩ | ⟨order, c, w, rfl⟩ | ⟨order, rfl⟩ | ⟨c, bps, rfl⟩ | ⟨a, bps, rfl⟩)
    · exact runCommand_nblk_outOfRange (of_decide_eq_true hi) (fun _ h => bind_of_raised (bind_of_raised h)) hu hn
    · exact runCommand_nblk_outOfRange (of_decide_eq_true hi) (fun _ h => bind_of_raised (bind_of_raised h)) hu hn
    · exact runCommand_nblk_outOfRange (of_decide_eq_true hi) (fun _ h => andThen_of_raised (bind_of_raised h)) hu hn
    · exact runCommand_nblk_outOfRange (of_decide_eq_true hi)
        (fun _ h => andThen_of_raised (bind_of_raised (bind_of_raised h))) hu hn
    · exact runCommand_nblk_outOfRange (of_decide_eq_true hi) (fun _ h => andThen_of_raised (bind_of_raised h)) hu hn
  case header =>
    obtain ⟨t, k, flag, -, -, e⟩ := exec_header hh
    rw [e, runHeader_of_sub hsub]
    refine ⟨fun ho => ?_, fun ho => runCommand_operandCheck (of_decide_eq_false ho)⟩
    exact runCommand_nblk_outOfRange (s := { s with sub := none }) (of_decide_eq_true ho)
      (fun _ h => andThen_of_raised (bind_of_raised (bind_of_raised h))) hu hn

/-- Settles O29: RESD's parts write RES below NBLK - order only, and a failed RESD erases the same entries. -/
theorem resdFrame : Obligations.ResdFrame := by
  intro order s t h
  have outputs := runCommand_outputsWithin (f := residualFootprint order.toNat (nblkOf s))
    (.andThen (.require _ rfl) fun _ => .andThen
      (residualSection_stays fun n hn _ i hi => show i < nblkOf s - order.toNat from hn ▸ hi) fun _ => .pure trivial)
    rfl (undefine_residual_outputsWithin order.toNat (nblkOf s)) h
  refine ⟨?_, outputs.res.sameOutside fun x hx => ⟨Nat.zero_le x, by rwa [Nat.zero_add]⟩⟩
  have keeps : Keeps ResidualsOnly ((operandCheck (order.toNat ≤ 32)).andThen
      ((residualSection order.toNat).andThen (Cmd.pure Code.ok))) :=
    .andThen residualsOnly_closed (.require residualsOnly_closed _ _) <|
    .andThen residualsOnly_closed (residualSection_keeps _) (.pure residualsOnly_closed _)
  obtain ⟨c, u, hu, rfl | rfl | rfl⟩ := runCommand_ends keeps ResidualsOnly.snapOf h <;> (rw [hu]; rfl)

/-- Settles O35: SUBF, and a header run in a waiting SUBF, as one command over the footprint of a subframe. -/
theorem subframesFrame : Obligations.SubframesFrame := by
  rintro i c s t (⟨bps, ch, rfl, rfl⟩ | ⟨hi, o, hsub, rfl⟩) h
  · exact runCommand_subframe_frame (subframe_keeps _ _) (fun _ hf => subframe_stays hf _) h
  · obtain ⟨code, k, flag, hcode, hk, e⟩ := exec_header hi
    rw [e, runHeader_of_sub hsub] at h
    exact SubframeFrame.of_waiting <| runCommand_subframe_frame (subframeWithHeader_keeps _ _ _ (classify_keeping hk) _)
      (fun _ hf => subframeWithHeader_stays hf (classify_staysIn hf hcode hk) _ _ _) h

/-- Settles O47: FHDR and FFTR by what their parts write; FRAME by what its parts write and R303 marks, and, where it
does not end fatally, by its header and the blocks of its channels. -/
theorem frameCommandsFrame : Obligations.FrameCommandsFrame := by
  refine fun s t => ⟨fun h => ?fhdr, fun h => ?fftr, fun h => ?frame⟩
  case fhdr =>
    have outputs := runCommand_outputsWithin (f := headerFootprint)
      (.andThen (frameHeader_ensures headerFootprint_allows).stays fun _ => .pure trivial) trivial
      (fun u _ => .refl u) h
    have keeps : Keeps HeaderOnly (frameHeader.andThen (Cmd.pure Code.ok)) :=
      .andThen headerOnly_closed frameHeader_keeps (.pure headerOnly_closed _)
    refine ⟨?_, outputs.undef⟩
    obtain ⟨c, u, hu, rfl | rfl | rfl⟩ := runCommand_ends keeps HeaderOnly.snapOf h <;> (rw [hu]; rfl)
  case fftr =>
    obtain ⟨c, u, hu, rfl | rfl | rfl⟩ := runCommand_ends frameFooter_keeps FooterOnly.snapOf h <;> (rw [hu]; rfl)
  case frame =>
    have outputs := runCommand_outputsWithin (f := frameFootprint)
      (frameBody_ensures frameFootprint_allowsHeader fun c _ => frameFootprint_allowsSubframe c).stays trivial
      (fun u _ => undefine_frame_outputsWithin u) h
    refine ⟨execFrame_only h, fun n hn => ⟨outputs.undef n hn, outputs.spoiled n hn⟩, fun hc => ?_⟩
    obtain ⟨u, v, hu, hv, hfh, ht⟩ := execFrame_notFatal h hc
    have spoiled : t.spoiled = s.spoiled := by rw [ht, endCommand_spoiled, hv.only, hu.only]; rfl
    have fields : t.fh = u.fh ∧ t.res = v.res ∧ t.smp = v.smp := by rw [ht]; exact ⟨hfh, rfl, rfl⟩
    obtain ⟨htfh, htres, htsmp⟩ := fields
    refine ⟨spoiled, fun x hx => ?_, fun x hx => ?_⟩
    · rw [nblkOf, htfh] at hx
      rw [htres]
      exact (hv.outputs.res.get x hx.not_gt).trans (hu.outputs.res.get x id)
    · rw [nblkOf, htfh] at hx
      rw [htsmp]
      exact (hv.outputs.smp.get x fun ⟨c, hc, ho⟩ => ho (hx c hc)).trans (hu.outputs.smp.get x id)

end

section
/-! SUPPORT. The register map as the host meets it (10_state.md R51): what a read returns, what a write changes, and the
step that serves an access. -/

namespace Sys2Proof.Machine

/-! The step that serves an access. -/

variable {s : State} {rest : List HostAccess}

/-- A write to CMD hands the core a command word. -/
theorem fetch_of_command {v : Word} (hsub : s.sub = none) (hin : s.inbox = .writeRegister 0x00 v :: rest) :
    fetch s = issue v { s with inbox := rest } := by
  obtain ⟨o, h, -⟩ | ⟨-, h, -⟩ | ⟨w, r, -, h, e⟩ | ⟨a, r, -, h, ha, -⟩ := fetch_cases s
  · rw [hsub] at h; cases h
  · rw [hin] at h; cases h
  · rw [hin] at h; cases h; exact e
  · rw [hin] at h; cases h; exact absurd rfl (ha v)

/-- Every other access is served by itself. -/
theorem step_of_access {a : HostAccess} (hsub : s.sub = none) (hin : s.inbox = a :: rest)
    (ha : ∀ v, a ≠ .writeRegister 0x00 v) : step s = hostAccess a { s with inbox := rest } := by
  obtain ⟨o, h, -⟩ | ⟨-, h, -⟩ | ⟨w, r, -, h, -⟩ | ⟨b, r, -, h, -, e⟩ := fetch_cases s
  · rw [hsub] at h; cases h
  · rw [hin] at h; cases h
  · rw [hin] at h; cases h; exact absurd rfl (ha w)
  · rw [hin] at h; cases h; rw [step, e]

theorem step_of_registerWrite {n : BitVec 7} {v : Word} (hsub : s.sub = none)
    (hin : s.inbox = .writeRegister n v :: rest) (hn : n.toNat ≠ 0) :
    step s = .next (registerWrite n.toNat v { s with inbox := rest }) :=
  step_of_access hsub hin fun w h => hn (by cases h; rfl)

/-! Reads. -/

theorem registerRead_of_unmarked {n : Nat} (h : s.undef.getLsbD n = false) :
    registerRead s n = some (registerBits s n) := by simp [registerRead, h]

theorem registerRead_of_marked {n : Nat} (h : s.undef.getLsbD n = true) : registerRead s n = none := by
  simp [registerRead, h]

/-- A register that cannot be UNDEF is read as it is. -/
theorem registerRead_of_marksSound {n : Nat} (h : MarksSound s) (hn : ¬ (0x10 ≤ n ∧ n ≤ 0x17))
    (ho : ¬ IsOutputRegister n) : registerRead s n = some (registerBits s n) := by
  refine registerRead_of_unmarked ?_
  cases hu : s.undef.getLsbD n with
  | false => rfl
  | true => exact (((marksSound_iff s).mp h).1 n hu).elim (absurd · hn) (absurd · ho)

theorem registerRead_congr {t : State} {n : Nat} (hu : t.undef.getLsbD n = s.undef.getLsbD n)
    (hb : registerBits t n = registerBits s n) : registerRead t n = registerRead s n := by
  rw [registerRead, registerRead, hu, hb]

/-- A register just written is read as it is. -/
theorem registerRead_of_clearMark {t : State} {n : Nat} {u : BitVec 128} (h : t.undef = clearMark n u) :
    registerRead t n = some (registerBits t n) :=
  registerRead_of_unmarked (by rw [h, getLsbD_clearMark]; simp)

/-- A register other than the one written is read as before, if its bits are. -/
theorem registerRead_of_clearMark_ne {t : State} {n r : Nat} (h : t.undef = clearMark n s.undef) (hr : r ≠ n)
    (hb : registerBits t r = registerBits s r) : registerRead t r = registerRead s r :=
  registerRead_congr (by rw [h, getLsbD_clearMark]; simp [hr]) hb

theorem zeroExtend_toNat {w : Nat} (hw : w ≤ 64) (v : BitVec w) : (zeroExtend v).toNat = v.toNat := by
  rw [zeroExtend, BitVec.toNat_setWidth, Nat.mod_eq_of_lt (v.isLt.trans_le (Nat.pow_le_pow_right (by omega) hw))]

theorem signExtend_toInt {w : Nat} (hw : w ≤ 64) (v : BitVec w) : (signExtend v).toInt = v.toInt :=
  BitVec.toInt_signExtend_of_le hw

/-- The low w bits of v, read back (R51). -/
theorem zeroExtend_setWidth {w : Nat} (hw : w ≤ 64) (v : Word) :
    zeroExtend (v.setWidth w) = v &&& BitVec.ofNat 64 (2 ^ w - 1) := by
  have hlt : 2 ^ w - 1 < 2 ^ 64 := by
    have := Nat.pow_le_pow_right (n := 2) (by omega) hw
    have := Nat.two_pow_pos w
    omega
  refine BitVec.eq_of_toNat_eq ?_
  rw [zeroExtend_toNat hw, BitVec.toNat_setWidth, BitVec.toNat_and, BitVec.toNat_ofNat, Nat.mod_eq_of_lt hlt,
    Nat.and_two_pow_sub_one_eq_mod]

/-- CODE is numbered as R104 lists the codes. -/
theorem Code.value_eq_idxOf (c : Code) :
    [Code.ok, .outOfData, .malformedStream, .unsupportedStream, .integrityError, .resync, .illegalCommand].idxOf c =
      c.value := by
  cases c <;> rfl

theorem statusWord_toNat (s : State) :
    (statusWord s).toNat = s.code.value + 2 ^ 8 * s.valid.toNat + 2 ^ 16 * s.sticky.toNat := by
  unfold statusWord
  cases s.code <;> cases s.valid <;> cases s.sticky <;> rfl

theorem crcWord_toNat (s : State) : (crcWord s).toNat = s.crc8.toNat + 2 ^ 8 * s.crc16.toNat := by
  rw [crcWord, BitVec.toNat_ofNat]
  omega

theorem positionWord_toNat (h : s.pos.toNat < 2 ^ 64) : (positionWord s).toNat = s.pos.toNat := by
  rw [positionWord, if_pos h, BitVec.toNat_setWidth, Nat.mod_eq_of_lt h]

/-- CMD, SEEK and the numbers not in the map. -/
def IsUnmapped (n : Nat) : Prop :=
  n = 0x00 ∨ n = 0x05 ∨ (0x08 ≤ n ∧ n ≤ 0x0F) ∨ (0x19 ≤ n ∧ n ≤ 0x1F) ∨ (0x28 ≤ n ∧ n ≤ 0x2F) ∨
    (0x35 ≤ n ∧ n ≤ 0x3F) ∨ 0x60 ≤ n

theorem registerBits_of_unmapped {n : Nat} (h : IsUnmapped n) : registerBits s n = 0 := by
  unfold IsUnmapped at h
  have hq : ¬ (0x40 ≤ n ∧ n ≤ 0x5F) := by omega
  unfold registerBits
  split
  case h_29 => exact if_neg hq
  all_goals omega

theorem registerBits_qlp {n : Nat} (h1 : 0x40 ≤ n) (h2 : n ≤ 0x5F) :
    registerBits s n = signExtend (s.qlp[n - 0x40]?.getD 0) := by
  unfold registerBits
  split
  case h_29 => exact if_pos ⟨h1, h2⟩
  all_goals omega

/-- No register but the FH registers shows a field of FH. -/
theorem registerBits_of_frameHeader {r : Nat} (hr : ¬ (0x20 ≤ r ∧ r ≤ 0x27)) (h : FrameHeader) (u : BitVec 128) :
    registerBits { s with fh := h, undef := u } r = registerBits s r := by
  unfold registerBits
  split
  case h_16 | h_17 | h_18 | h_19 | h_20 | h_21 | h_22 | h_23 => omega
  all_goals rfl

/-- No register but SF_SHIFT shows the shift. -/
theorem registerBits_setShift {r : Nat} (hr : r ≠ 0x34) (v : BitVec 5) :
    registerBits (setShift v s) r = registerBits s r := by
  unfold registerBits
  split
  case h_28 => exact (hr rfl).elim
  all_goals rfl

/-- No register but QLP[j] shows that coefficient. -/
theorem registerBits_setQlp {j r : Nat} (hr : r ≠ 0x40 + j) (v : BitVec 16) :
    registerBits (setQlp j v s) r = registerBits s r := by
  by_cases hq : 0x40 ≤ r ∧ r ≤ 0x5F
  · rw [registerBits_qlp hq.1 hq.2, registerBits_qlp hq.1 hq.2, setQlp_qlp,
      Vector.getElem?_setIfInBounds_ne (by omega)]
  · unfold registerBits
    split
    case h_29 => rw [if_neg hq, if_neg hq]
    all_goals rfl

theorem registerBits_setQlp_self {j : Nat} (hj : j < 32) (v : BitVec 16) :
    registerBits (setQlp j v s) (0x40 + j) = signExtend v := by
  rw [registerBits_qlp (by omega) (by omega), setQlp_qlp, Nat.add_sub_cancel_left,
    Vector.getElem?_setIfInBounds_self_of_lt hj, Option.getD_some]

/-! Writes. -/

/-- A write of w bits to a FH register shows there, and in no other register. -/
theorem writeFrameHeader_reads {n w : Nat} {g : FrameHeader → FrameHeader} {v : Word} (hw : w ≤ 64)
    (same : registerBits (writeFrameHeader n g s) n = zeroExtend (v.setWidth w))
    (other : ∀ r, 0x20 ≤ r → r ≤ 0x27 → r ≠ n → registerBits (writeFrameHeader n g s) r = registerBits s r) :
    registerRead (writeFrameHeader n g s) n = some (v &&& BitVec.ofNat 64 (2 ^ w - 1)) ∧
    ∀ r, r ≠ n → registerRead (writeFrameHeader n g s) r = registerRead s r := by
  refine ⟨?_, fun r hr => registerRead_of_clearMark_ne rfl hr ?_⟩
  · rw [registerRead_of_clearMark rfl, same, zeroExtend_setWidth hw]
  · by_cases hf : 0x20 ≤ r ∧ r ≤ 0x27
    exacts [other r hf.1 hf.2 hr, registerBits_of_frameHeader hf _ _]

/-- A write of w bits to a StreamInfo register shows there, and in no other of them. -/
theorem writeStreamInfo_reads {n w : Nat} {g : StreamInfo → StreamInfo} {v : Word} (hw : w ≤ 64)
    (same : registerBits (writeStreamInfo n g s) n = zeroExtend (v.setWidth w))
    (other : ∀ r, 0x10 ≤ r → r ≤ 0x17 → r ≠ n → registerBits (writeStreamInfo n g s) r = registerBits s r) :
    registerRead (writeStreamInfo n g s) n = some (v &&& BitVec.ofNat 64 (2 ^ w - 1)) ∧
    ∀ r, 0x10 ≤ r → r ≤ 0x17 → r ≠ n → registerRead (writeStreamInfo n g s) r = registerRead s r := by
  refine ⟨?_, fun r h1 h2 hr => registerRead_of_clearMark_ne rfl hr (other r h1 h2 hr)⟩
  rw [registerRead_of_clearMark rfl, same, zeroExtend_setWidth hw]

/-- The FH register n takes the low bits of v, as wide as R51 has it. -/
theorem registerWrite_frameHeader {n : Nat} (h1 : 0x20 ≤ n) (h2 : n ≤ 0x27) (v : Word) (s : State) :
    registerWrite n v s = { s with fh := (registerWrite n v s).fh, undef := (registerWrite n v s).undef } ∧
    registerRead (registerWrite n v s) n =
      some (v &&& BitVec.ofNat 64 (2 ^ [1, 17, 20, 4, 4, 6, 36, 8].getD (n - 0x20) 0 - 1)) ∧
    ∀ r, r ≠ n → registerRead (registerWrite n v s) r = registerRead s r := by
  interval_cases n
  all_goals
    refine ⟨rfl, writeFrameHeader_reads (by decide) rfl fun r h1 h2 hr => ?_⟩
    rcases hr.lt_or_gt with h | h <;> interval_cases r <;> rfl

/-- The StreamInfo register n takes the low bits of v and clears SI_VALID (R40). -/
theorem registerWrite_streamInfo {n : Nat} (h1 : 0x10 ≤ n) (h2 : n ≤ 0x17) (v : Word) (s : State) :
    registerWrite n v s = { s with si := (registerWrite n v s).si, siValid := false, undef := clearMark n s.undef } ∧
    registerRead (registerWrite n v s) n =
      some (v &&& BitVec.ofNat 64 (2 ^ [20, 4, 6, 36, 16, 16, 24, 24].getD (n - 0x10) 0 - 1)) ∧
    ∀ r, 0x10 ≤ r → r ≤ 0x17 → r ≠ n → registerRead (registerWrite n v s) r = registerRead s r := by
  interval_cases n
  all_goals
    refine ⟨rfl, writeStreamInfo_reads (by decide) rfl fun r h1 h2 hr => ?_⟩
    rcases hr.lt_or_gt with h | h <;> interval_cases r <;> rfl

theorem registerWrite_qlp {n : Nat} (h1 : 0x40 ≤ n) (h2 : n ≤ 0x5F) (v : Word) (s : State) :
    registerWrite n v s = setQlp (n - 0x40) (v.setWidth 16) s := by
  unfold registerWrite
  split
  case h_23 => exact if_pos ⟨h1, h2⟩
  all_goals omega

/-- The read-only registers and the numbers not in the map. -/
def IsReadOnly (n : Nat) : Prop :=
  n = 0x02 ∨ n = 0x04 ∨ (0x07 ≤ n ∧ n ≤ 0x0F) ∨ (0x19 ≤ n ∧ n ≤ 0x1F) ∨ (0x28 ≤ n ∧ n ≤ 0x33) ∨
    (0x35 ≤ n ∧ n ≤ 0x3F) ∨ 0x60 ≤ n

theorem registerWrite_of_readOnly {n : Nat} (h : IsReadOnly n) (v : Word) (s : State) : registerWrite n v s = s := by
  unfold IsReadOnly at h
  have hq : ¬ (0x40 ≤ n ∧ n ≤ 0x5F) := by omega
  unfold registerWrite
  split
  case h_23 => exact if_neg hq
  all_goals omega

end Sys2Proof.Machine

open Sys2Proof Sys2Proof.Machine

/-- Settles O4: the write to CMD is what `fetch` finds, and its word decodes. -/
theorem stepRunsIssuedCommand : Obligations.StepRunsIssuedCommand := by
  intro s v rest i hsub hin hv hi
  have hi : decodeCommand (v.setWidth 32) = .ok i := hi
  rw [step, fetch_of_command hsub hin, issue, if_pos hv, hi]

/-- Settles O57: SEEK against LEN; LEN against P_BUF_MAX and the cursor's byte, rounded up. -/
theorem hostSeeksAndSetsLength : Obligations.HostSeeksAndSetsLength := by
  refine fun s v rest hsub => ⟨fun hin hv => ?_, fun hin hv => ?_, fun hin hmax hpos => ?_, fun hin hv => ?_⟩ <;>
    rw [step_of_registerWrite hsub hin (by decide)]
  · show Host.Outcome.next (writeSeek v _) = _
    rw [writeSeek, if_pos hv]; rfl
  · show Host.Outcome.next (writeSeek v _) = _
    rw [writeSeek, if_neg hv.not_ge]; rfl
  · show Host.Outcome.next (writeLen v _) = _
    rw [writeLen, if_pos ⟨hmax, show (s.pos.toNat + 7) / 8 ≤ v.toNat by omega⟩]; rfl
  · show Host.Outcome.next (writeLen v _) = _
    rw [writeLen, if_neg fun h : v.toNat ≤ s.cfg.bufMax ∧ (s.pos.toNat + 7) / 8 ≤ v.toNat => by omega]; rfl

/-- Settles O59: SI_VALID by what makes StreamInfo complete, and the eight StreamInfo registers by one lemma. -/
theorem hostValidatesStreamInfo : Obligations.HostValidatesStreamInfo := by
  refine fun s v rest hsub => ⟨fun hin => ⟨fun h => ?_, fun h => ?_⟩, fun hin => ?_, fun n h1 h2 hin => ?_⟩
  · rw [step_of_registerWrite hsub hin (by decide)]
    show Host.Outcome.next (writeSiValid 1 _) = _
    have complete : streamInfoComplete { s with inbox := rest } = true := (streamInfoComplete_iff _).mpr h
    rw [writeSiValid, if_pos (by decide), if_pos complete]; rfl
  · rw [step_of_registerWrite hsub hin (by decide)]
    show Host.Outcome.next (writeSiValid 1 _) = _
    have incomplete : ¬ streamInfoComplete { s with inbox := rest } = true := mt (streamInfoComplete_iff _).mp h
    rw [writeSiValid, if_pos (by decide), if_neg incomplete]; rfl
  · exact ⟨_, step_of_registerWrite hsub hin (by decide), rfl⟩
  · rw [step_of_registerWrite hsub hin (by omega)]
    obtain ⟨only, same, other⟩ := registerWrite_streamInfo h1 h2 v { s with inbox := rest }
    have marks : (registerWrite n.toNat v { s with inbox := rest }).undef = clearMark n.toNat s.undef := by rw [only]
    refine ⟨_, rfl, by rw [marks]; exact only, fun r => ?_, same, other⟩
    rw [marks, getLsbD_clearMark]

/-- Settles O58: each register read by the bits it holds, each register write by what the register map does with it. -/
theorem hostWritesRegisters : Obligations.HostWritesRegisters := by
  refine ⟨fun s n rest hsub hin => ?access, fun s n => registerRead_of_marked, fun s hs => ?plain,
    fun s n hn => ?fields, fun s n v rest hsub hin => ?write⟩
  case access => exact step_of_access hsub hin (by simp)
  case plain =>
    have read : ∀ n, ¬ (0x10 ≤ n ∧ n ≤ 0x17) → ¬ IsOutputRegister n → registerRead s n = some (registerBits s n) :=
      fun n => registerRead_of_marksSound hs
    refine ⟨⟨_, read 0x01 (by omega) (by omega), ?_⟩, read 0x02 (by omega) (by omega),
      ⟨_, read 0x03 (by omega) (by omega), ?_⟩,
      fun hpos => ⟨_, read 0x04 (by omega) (by omega), positionWord_toNat hpos⟩,
      read 0x06 (by omega) (by omega), ⟨_, read 0x07 (by omega) (by omega), crcWord_toNat s⟩,
      ⟨_, read 0x18 (by omega) (by omega), ?_⟩, fun n hn => ?_⟩
    · rw [Code.value_eq_idxOf]; exact statusWord_toNat s
    · show (ctrlWord s).toNat = _
      unfold ctrlWord; cases s.scan <;> rfl
    · show (if s.siValid then (1 : Word) else 0).toNat = _
      cases s.siValid <;> rfl
    · rw [read n (by omega) (by omega), registerBits_of_unmapped hn]
  case fields =>
    have read := registerRead_of_unmarked hn
    refine ⟨fun h1 h2 => ⟨_, read, ?_⟩, fun h1 h2 => ⟨_, read, ?_⟩, fun h1 h2 => ⟨_, read, ?_⟩, fun h => ⟨_, read, ?_⟩,
      fun h1 h2 => ⟨_, read, ?_⟩⟩
    · interval_cases n <;> exact congrArg some (zeroExtend_toNat (by decide) _).symm
    · interval_cases n <;> exact congrArg some (zeroExtend_toNat (by decide) _).symm
    · interval_cases n <;> exact congrArg some (zeroExtend_toNat (by decide) _).symm
    · rw [h]; exact signExtend_toInt (by decide) _
    · rw [registerBits_qlp h1 h2, signExtend_toInt (by decide), qlpOf]
  case write =>
    refine ⟨fun h => ?status, fun h => ?ctrl, fun h => ?readOnly, fun h1 h2 => ?fh, fun h => ?shift,
      fun h1 h2 => ?qlp⟩ <;> rw [step_of_registerWrite hsub hin (by omega)]
    case status =>
      rw [h]
      show Host.Outcome.next (writeStatus v _) = _
      unfold writeStatus
      cases v.getLsbD 16 <;> simp [setSticky]
    case ctrl => rw [h]; rfl
    case readOnly => rw [registerWrite_of_readOnly h]
    case fh =>
      obtain ⟨only, same, other⟩ := registerWrite_frameHeader h1 h2 v { s with inbox := rest }
      exact ⟨_, rfl, only, same, fun r _ => other r⟩
    case shift =>
      rw [h]
      exact ⟨_, rfl, rfl, registerRead_of_clearMark rfl, fun r _ hr => registerRead_of_clearMark_ne rfl hr
        (registerBits_setShift hr _)⟩
    case qlp =>
      obtain ⟨j, hj⟩ : ∃ j, n.toNat = 0x40 + j := ⟨n.toNat - 0x40, by omega⟩
      rw [registerWrite_qlp h1 h2, hj, Nat.add_sub_cancel_left]
      refine ⟨_, rfl, rfl, ?_, fun r _ hr => registerRead_of_clearMark_ne rfl hr (registerBits_setQlp hr _)⟩
      rw [registerRead_of_clearMark rfl, registerBits_setQlp_self (by omega)]
      rfl

end

section
/-! SUPPORT. What a command keeps of the host's state, whatever it is and however it ends: RESULT and the record of a
model fault along the parts of a command, then the two ends of a command. -/

namespace Sys2Proof.Machine

/-! RESULT and the record of a model fault. -/

/-- RESULT is kept, and a model fault on record stays on record (R35, R358). -/
def RecordKept (s t : State) : Prop := t.result = s.result ∧ (s.undefRead = true → t.undefRead = true)

theorem recordKept_closed : Closed RecordKept where
  refl _ := ⟨rfl, id⟩
  trans := fun ⟨r, u⟩ ⟨r', u'⟩ => ⟨r'.trans r, u' ∘ u⟩

theorem CursorOnly.record {s t : State} (h : CursorOnly s t) : RecordKept s t := by rw [h]; exact ⟨rfl, id⟩

theorem FooterOnly.record {s t : State} (h : FooterOnly s t) : RecordKept s t := by rw [h]; exact ⟨rfl, id⟩

/-- A part that keeps RESULT and the record, however it ends. -/
abbrev Recording {α : Type} (m : Cmd α) : Prop := Keeps RecordKept m

namespace Recording

variable {α β : Type} {m : Cmd α} {k : α → Cmd β}

theorem pure (a : α) : Recording (Cmd.pure a) := Keeps.pure recordKept_closed a

theorem raise (c : Code) : Recording (Cmd.raise c : Cmd α) := Keeps.raise recordKept_closed c

theorem read (f : State → α) : Recording (Cmd.read f) := Keeps.read recordKept_closed f

theorem require (p : Prop) [Decidable p] (c : Code) : Recording (Cmd.require p c) := Keeps.require recordKept_closed p c

theorem bind (hm : Recording m) (hk : ∀ a, Recording (k a)) : Recording (m.bind k) := Keeps.bind recordKept_closed hm hk

theorem andThen {k : Cmd β} (hm : Recording m) (hk : Recording k) : Recording (m.andThen k) :=
  Keeps.andThen recordKept_closed hm hk

theorem forRange {body : Nat → Cmd Unit} {count first : Nat} (h : ∀ i, Recording (body i)) :
    Recording (Cmd.forRange body count first) :=
  Keeps.forRange recordKept_closed fun i _ _ => h i

theorem ite {p : Prop} [Decidable p] {m' : Cmd α} (hm : Recording m) (hm' : Recording m') :
    Recording (if p then m else m') :=
  Keeps.ite hm hm'

/-- A part that only moves the cursor is one. -/
theorem of_cursor (h : Keeps CursorOnly m) : Recording m := h.mono fun _ _ => CursorOnly.record

end Recording

/-- The one place where the record is written: it is set there, never cleared (R18, R316). -/
theorem useRegister_records (n : Nat) : Recording (useRegister n) := by
  intro s
  unfold useRegister
  cases s.undef.getLsbD n <;> cases s.spoiled.getLsbD n
  exacts [⟨rfl, id⟩, ⟨rfl, id⟩, ⟨rfl, fun _ => rfl⟩, trivial]

theorem checkedNblk_records : Recording checkedNblk :=
  .andThen (useRegister_records _) <| .bind (.read _) fun _ => .andThen (.require _ _) (.pure _)

theorem readShift_records : Recording readShift := .andThen (useRegister_records _) (.read _)

theorem readQlp_records (j : Nat) : Recording (readQlp j) := .andThen (useRegister_records _) (.read _)

theorem readRes_records (i : Nat) : Recording (readRes i) := readRes_keeps recordKept_closed i

theorem readSmp_records (c i : Nat) : Recording (readSmp c i) := readSmp_keeps recordKept_closed c i

theorem writeRes_records (i : Nat) (v : Int) : Recording (writeRes i v) := .update fun _ => ⟨rfl, id⟩

theorem writeSmp_records (c i : Nat) (v : Int) : Recording (writeSmp c i v) := .update fun _ => ⟨rfl, id⟩

theorem readBits_records (n : Nat) : Recording (readBits n) := .of_cursor (readBits_keeps n)

theorem readSigned_records (n : Nat) : Recording (readSigned n) := .of_cursor (readSigned_keeps n)

theorem weightedHistory_records {coefficient : Nat → Cmd Int} (h : ∀ j, Recording (coefficient j)) (c i : Nat) :
    ∀ count j acc, Recording (weightedHistory coefficient c i count j acc)
  | 0, _, _ => .pure _
  | n + 1, j, _ => .bind (h j) fun _ => .bind (readSmp_records _ _) fun _ => weightedHistory_records h c i n (j + 1) _

theorem reconstruct_records {prediction : Nat → Cmd Int} (h : ∀ i, Recording (prediction i)) (order nblk c w : Nat) :
    Recording (reconstruct prediction order nblk c w) :=
  .forRange fun i => .bind (readRes_records _) fun _ => .bind (h i) fun _ =>
    .andThen (.require _ _) (writeSmp_records _ _ _)

theorem fixedRecon_records (order nblk c w : Nat) : Recording (fixedRecon order nblk c w) :=
  reconstruct_records (fun _ => weightedHistory_records (fun _ => .pure _) _ _ _ _ _) _ _ _ _

theorem lpcRecon_records (order shift nblk c w : Nat) : Recording (lpcRecon order shift nblk c w) :=
  reconstruct_records
    (fun _ => .bind (weightedHistory_records readQlp_records _ _ _ _ _) fun _ => .pure _) _ _ _ _

theorem predictorChecks_records (order c w : Nat) : Recording (predictorChecks order c w) :=
  .bind checkedNblk_records fun _ => .andThen (.require _ _) <|
  .andThen (.forRange fun _ => .bind (readSmp_records _ _) fun _ => .require _ _) (.pure _)

theorem readPartition_records (pbits esc count idx : Nat) : Recording (readPartition pbits esc count idx) :=
  .bind (readBits_records _) fun _ => .ite
    (.bind (readBits_records _) fun _ => .forRange fun _ =>
      .bind (readSigned_records _) fun _ => writeRes_records _ _)
    (.forRange fun _ => .bind (.of_cursor (readRice_keeps _)) fun _ => writeRes_records _ _)

theorem readPartitions_records (pbits esc psize order : Nat) :
    ∀ parts p idx, Recording (readPartitions pbits esc psize order parts p idx)
  | 0, _, _ => .pure _
  | n + 1, _, _ => .andThen (readPartition_records _ _ _ _) (readPartitions_records pbits esc psize order n _ _)

theorem residualSection_records (order : Nat) : Recording (residualSection order) :=
  .bind checkedNblk_records fun _ => .bind (readBits_records _) fun _ => .andThen (.require _ _) <|
  .bind (readBits_records _) fun _ => .andThen (.require _ _) <| .andThen (.require _ _) <|
  readPartitions_records _ _ _ _ _ _ _

theorem readSamples_records (c ebps count : Nat) : Recording (readSamples c ebps count) :=
  .forRange fun _ => .bind (readSigned_records _) fun _ => writeSmp_records _ _ _

theorem constantBody_records (c ebps nblk : Nat) : Recording (constantBody c ebps nblk) :=
  .bind (readSigned_records _) fun _ => .forRange fun _ => writeSmp_records _ _ _

theorem fixedBody_records (order c ebps nblk : Nat) : Recording (fixedBody order c ebps nblk) :=
  .andThen (readSamples_records _ _ _) <| .andThen (residualSection_records _) (fixedRecon_records _ _ _ _)

theorem lpcBody_records (order c ebps nblk : Nat) : Recording (lpcBody order c ebps nblk) :=
  .andThen (readSamples_records _ _ _) <| .bind (readBits_records _) fun _ => .andThen (.require _ _) <|
  .andThen (.update fun _ => ⟨rfl, id⟩) <| .bind (readSigned_records _) fun _ =>
  .andThen (.update fun _ => ⟨rfl, id⟩) <| .andThen (.require _ _) <|
  .andThen (.forRange fun _ => .bind (readSigned_records _) fun _ => .update fun _ => ⟨rfl, id⟩) <|
  .andThen (residualSection_records _) (lpcRecon_records _ _ _ _ _)

theorem lpcOrderCheck_records (order : Nat) : Recording (lpcOrderCheck order) :=
  .bind (.read _) fun _ => .require _ _

theorem shiftSamples_records (c wasted nblk : Nat) : Recording (shiftSamples c wasted nblk) :=
  .forRange fun _ => .bind (readSmp_records _ _) fun _ => writeSmp_records _ _ _

/-- What a kind of subframe checks and its body keep RESULT and the record. -/
structure SubframeKind.Records (k : SubframeKind) : Prop where
  check : Recording k.check
  body : ∀ c ebps nblk, Recording (k.body c ebps nblk)

theorem classify_records {t : Nat} {k : SubframeKind} (h : classify t = some k) : k.Records := by
  unfold classify at h
  split_ifs at h <;> cases h
  · exact ⟨.pure _, constantBody_records⟩
  · exact ⟨.pure _, readSamples_records⟩
  · exact ⟨.pure _, fixedBody_records _⟩
  · exact ⟨lpcOrderCheck_records _, lpcBody_records _⟩

theorem subframeRest_records (c bps nblk t order : Nat) (flag : Bool) {body : Nat → Cmd Unit}
    (h : ∀ ebps, Recording (body ebps)) : Recording (subframeRest c bps nblk t order flag body) :=
  .bind (.of_cursor (readWasted_keeps _)) fun _ => .andThen (.require _ _) <| .andThen (.require _ _) <|
  .andThen (.update fun _ => ⟨rfl, id⟩) <| .andThen (h _) <|
  .ite (shiftSamples_records _ _ _) (.pure _)

theorem subframeChecks_records (bps : Nat) : Recording (subframeChecks bps) :=
  .bind checkedNblk_records fun _ => .bind (.read _) fun _ => .andThen (.require _ _) (.pure _)

theorem subframe_records (c bps : Nat) : Recording (subframe c bps) := by
  refine .bind (subframeChecks_records _) fun _ => .bind (readBits_records _) fun _ => .andThen (.require _ _) <|
    .bind (readBits_records _) fun t => ?_
  cases h : classify t with
  | none => exact .raise _
  | some k =>
    exact .andThen (classify_records h).check <| .bind (readBits_records _) fun _ =>
      subframeRest_records _ _ _ _ _ _ fun _ => (classify_records h).body _ _ _

theorem subframeWithHeader_records (c bps t : Nat) {k : SubframeKind} (h : k.Records) (flag : Bool) :
    Recording (subframeWithHeader c bps t k flag) :=
  .bind (subframeChecks_records _) fun _ => .andThen (readBits_records _) <| .andThen (readBits_records _) <|
  .andThen h.check <| .andThen (readBits_records _) <| subframeRest_records _ _ _ _ _ _ fun _ => h.body _ _ _

theorem decorrelatedPairs_records (a bps : Nat) : ∀ count i, Recording (decorrelatedPairs a bps count i)
  | 0, _ => .pure _
  | n + 1, i =>
    .bind (readSmp_records _ _) fun _ => .bind (readSmp_records _ _) fun _ => .andThen (.require _ _) <|
    .bind (decorrelatedPairs_records a bps n (i + 1)) fun _ => .pure _

theorem writePairs_records : ∀ pairs i, Recording (writePairs pairs i)
  | [], _ => .pure _
  | _ :: rest, i =>
    .andThen (writeSmp_records _ _ _) <| .andThen (writeSmp_records _ _ _) (writePairs_records rest (i + 1))

theorem decorrelator_records (a bps : Nat) : Recording (decorrelator a bps) :=
  .bind checkedNblk_records fun _ => .ite (.pure _) <|
  .bind (decorrelatedPairs_records _ _ _ _) fun _ => writePairs_records _ _

/-- A StreamInfo register, as a command reads it. -/
theorem readSi_records (n : Nat) (f : State → Nat) : Recording ((useRegister n).andThen (Cmd.read f)) :=
  .andThen (useRegister_records n) (.read f)

theorem sampleRate_records (code : Nat) : Recording (sampleRate code) := by
  unfold sampleRate
  split
  case h_1 => exact readSi_records _ _
  case h_13 | h_15 => exact .bind (readBits_records _) fun _ => .pure _
  case h_14 => exact readBits_records _
  case h_16 => exact .raise _
  all_goals exact .pure _

theorem sampleSize_records (code : Nat) : Recording (sampleSize code) := by
  unfold sampleSize
  split
  case h_1 => exact readSi_records _ _
  case h_7 => exact .raise _
  all_goals exact .pure _

theorem frameHeader_records : Recording frameHeader := by
  refine .bind (.read _) fun _ => .andThen (.require _ _) <| .bind (.read _) fun _ => .andThen (.require _ _) <|
    .andThen (.update fun _ => ⟨rfl, id⟩) <| .bind (readBits_records _) fun _ => .bind (.read _) fun _ =>
    .andThen (.require _ _) <| .bind (readBits_records _) fun _ => .andThen (.require _ _) <|
    .bind (readBits_records _) fun _ =>
    .bind (readBits_records _) fun _ => .andThen (.require _ _) <|
    .bind (readBits_records _) fun _ => .andThen (.require _ _) <|
    .bind (readBits_records _) fun _ => .andThen (.require _ _) <|
    .bind (readBits_records _) fun _ => .andThen (.require _ _) <|
    .bind (readBits_records _) fun _ => .andThen (.require _ _) <|
    .bind (.of_cursor readNumber_keeps) fun _ => .bind (.of_cursor (blockSize_keeps _)) fun _ =>
    .bind (sampleRate_records _) fun _ => .bind (.read _) fun _ =>
    .bind (readBits_records _) fun _ => .andThen (.require _ _) <|
    .bind (sampleSize_records _) fun _ => .bind (readSi_records _ _) fun _ => .bind (readSi_records _ _) fun _ =>
    .andThen (.require _ _) <| .bind (readSi_records _ _) fun _ => .andThen (.require _ _) <|
    .bind (.read _) fun _ => .andThen (.require _ _) <|
    .andThen (.update fun s => ?_) (.update fun _ => ⟨rfl, id⟩)
  split
  exacts [⟨rfl, id⟩, ⟨rfl, id⟩]

theorem frameFooter_records : Recording frameFooter := frameFooter_keeps.mono fun _ _ => FooterOnly.record

theorem frameBody_records : Recording frameBody :=
  .andThen frameHeader_records <| .bind (.read _) fun _ => .andThen (.forRange fun _ => subframe_records _ _) <|
  .bind frameFooter_records fun _ => .andThen (decorrelator_records _ _) (.pure _)

/-! The two ends of a command. -/

/-- What is the host's to write, or of the machine around the command, is kept, and no command is running (R50, R74). -/
def HostStateKept (s t : State) : Prop :=
  t.buf = s.buf ∧ t.len = s.len ∧ t.scan = s.scan ∧ t.si = s.si ∧ t.siValid = s.siValid ∧ t.cfg = s.cfg ∧
  t.inbox = s.inbox ∧ t.hostData = s.hostData ∧ t.snap = none

/-- STICKY is set by a fatal code and kept by any other (R36). -/
def StickyFollowsCode (s t : State) : Prop := t.sticky = (t.code.fatal || s.sticky)

/-- The body of a command stays inside what the machine allows, raises fatal codes only and gives none (R302, R304). -/
abbrev EndsWell (body : Cmd Code) : Prop := Ensures machineFootprint (fun c _ => c.fatal = false) body

theorem runCommand_keepsHostState {k : CommandKind} {body : Cmd Code} {s t : State} (hb : EndsWell body)
    (h : runCommand k body s = .next t) : HostStateKept s t ∧ StickyFollowsCode s t := by
  obtain ⟨c, u, e, rfl⟩ | ⟨c, u, e, rfl⟩ := runCommand_next h
  · obtain ⟨hc, hu⟩ := hb.of_ok trivial e
    rw [hu.only]
    exact ⟨⟨rfl, rfl, rfl, rfl, rfl, rfl, rfl, rfl, rfl⟩, by simp [StickyFollowsCode, hc]⟩
  · obtain ⟨hc, hu⟩ := hb.of_raised trivial e
    obtain ⟨cfg, len, buf, scan, si, siValid, -, -, inbox, hostData⟩ :=
      fatalEnd_hostState (k := k) (c := c) hu.only.snapOf
    obtain ⟨-, -, -, -, code, sticky, snap⟩ := fatalEnd_restores (k := k) (c := c) hu.only.snapOf
    refine ⟨?_, by rw [StickyFollowsCode, sticky, code, hc, Bool.true_or]⟩
    rw [HostStateKept, cfg, len, buf, scan, si, siValid, inbox, hostData, snap, hu.only]
    exact ⟨rfl, rfl, rfl, rfl, rfl, rfl, rfl, rfl, rfl⟩

theorem runCommand_keepsRecord {k : CommandKind} {body : Cmd Code} {s t : State} (hs : EndsWell body)
    (hb : Recording body) (h : runCommand k body s = .next t) : RecordKept s t := by
  obtain ⟨c, u, e, rfl⟩ | ⟨c, u, e, rfl⟩ := runCommand_next h
  · obtain ⟨result, undefRead⟩ := hb.of_ok e
    exact ⟨result, undefRead⟩
  · have snap := (hs.of_raised trivial e).2.only.snapOf
    obtain ⟨-, -, -, -, -, -, undefRead, -⟩ := fatalEnd_hostState (k := k) (c := c) snap
    obtain ⟨-, -, -, result, -⟩ := fatalEnd_restores (k := k) (c := c) snap
    obtain ⟨-, hu⟩ := hb.of_raised e
    exact ⟨result, by rw [undefRead]; exact hu⟩

/-! The commands. -/

/-- The commands that write RESULT (R35, R150 to R156). -/
def WritesResult (i : Instr) : Prop :=
  i = .rdu ∨ i = .gc8 ∨ i = .gc16 ∨ ∃ n, i = .rdb n ∨ i = .rds n ∨ i = .rdr n

theorem finishWith_endsWell (v : Word) : EndsWell (finishWith v) :=
  .andThen (.update fun _ hs => ⟨trivial, hs, rfl, ⟨.refl _, .refl _, .refl _, .refl _⟩, id⟩) fun _ => .pure rfl

/-- The shape of RDB, RDS and RDR. -/
theorem readInto_endsWell {α : Type} {p : Prop} [Decidable p] {m : Cmd α} (hm : Stays machineFootprint m)
    (g : α → Word) : EndsWell ((operandCheck p).andThen (m.bind fun v => finishWith (g v))) :=
  .andThen (.require _ rfl) fun _ => .bind hm fun _ _ => finishWith_endsWell _

/-- What an instruction with next state t from s does to the host's part of the state. -/
structure HostFrame (i : Instr) (s t : State) : Prop where
  host : HostStateKept s t
  sticky : StickyFollowsCode s t
  record : s.undefRead = true → t.undefRead = true
  result : ¬ WritesResult i → t.result = s.result

theorem HostFrame.of_recording {i : Instr} {k : CommandKind} {body : Cmd Code} {s t : State} (hs : EndsWell body)
    (hb : Recording body) (h : runCommand k body s = .next t) : HostFrame i s t :=
  have ⟨host, sticky⟩ := runCommand_keepsHostState hs h
  have ⟨result, record⟩ := runCommand_keepsRecord hs hb h
  ⟨host, sticky, record, fun _ => result⟩

theorem HostFrame.of_writer {i : Instr} {body : Cmd Code} {s t : State} (hi : WritesResult i) (hs : EndsWell body)
    (hb : Keeps ResultOnly body) (h : runCommand .plain body s = .next t) : HostFrame i s t :=
  have ⟨host, sticky⟩ := runCommand_keepsHostState hs h
  ⟨host, sticky, by rw [runCommand_plain_frame hb h]; exact id, fun hn => absurd hi hn⟩

/-- The shape of RESD, SUBF and DECOR: the word check, and one operation that ends with OK. -/
theorem HostFrame.of_operation {i : Instr} {k : CommandKind} {p : Prop} [Decidable p] {m : Cmd Unit} {s t : State}
    (hs : p → Stays machineFootprint m) (hb : Recording m)
    (h : runCommand k ((operandCheck p).andThen (m.andThen (Cmd.pure .ok))) s = .next t) : HostFrame i s t :=
  .of_recording (.andThen (.require _ rfl) fun hp => .andThen (hs hp) fun _ => .pure rfl)
    (.andThen (.require _ _) <| .andThen hb (.pure _)) h

/-- A subframe header is run as the SUBF that waits for it. -/
theorem exec_header_hostFrame {i : Instr} {s t : State} (hi : isSubframeHeader i = true) (h : exec i s = .next t) :
    HostFrame i s t := by
  obtain ⟨code, k, flag, hcode, hk, e⟩ := exec_header hi
  rw [e] at h
  cases hsub : s.sub with
  | none => rw [runHeader, hsub] at h; cases h
  | some o =>
    rw [runHeader_of_sub hsub] at h
    have frame : HostFrame i { s with sub := none } t := .of_operation
      (fun ⟨hc, _⟩ => have allowed := machineFootprint_allowsSubframe hc
        subframeWithHeader_stays allowed (classify_staysIn allowed hcode hk) _ _ _)
      (subframeWithHeader_records _ _ _ (classify_records hk) _) h
    exact ⟨frame.host, frame.sticky, frame.record, frame.result⟩

theorem exec_hostFrame {i : Instr} {s t : State} (h : exec i s = .next t) : HostFrame i s t := by
  by_cases hh : isSubframeHeader i = true
  · exact exec_header_hostFrame hh h
  have allowed := fun {c : Nat} (hc : c ≤ 7) => machineFootprint_allowsSubframe hc
  cases i with
  | rdb n =>
    exact .of_writer (by simp [WritesResult]) (readInto_endsWell (readBits_ensures _).stays _)
      (readInto_result_keeps (readBits_keeps _) _) h
  | rds n =>
    exact .of_writer (by simp [WritesResult]) (readInto_endsWell (readSigned_stays _) _)
      (readInto_result_keeps (readSigned_keeps _) _) h
  | rdr k =>
    exact .of_writer (by simp [WritesResult]) (readInto_endsWell (readRice_stays _) _)
      (readInto_result_keeps (readRice_keeps _) _) h
  | rdu =>
    exact .of_writer (.inl rfl) (.bind readUnary_stays fun _ _ => finishWith_endsWell _)
      (.bind resultOnly_closed (readUnary_keeps.mono fun _ _ => CursorOnly.result) fun _ => finishWith_keeps _) h
  | gc8 | gc16 =>
    cases h
    exact ⟨⟨rfl, rfl, rfl, rfl, rfl, rfl, rfl, rfl, rfl⟩, rfl, id, fun hn => absurd (by simp [WritesResult]) hn⟩
  | aln =>
    exact .of_recording (.andThen byteAlign_stays fun _ => .pure rfl)
      (.andThen (.of_cursor byteAlign_keeps) (.pure _)) h
  | crcr =>
    exact .of_recording (k := .plain) (.andThen (setCrcs_stays (fun _ => 0) fun _ => 0) fun _ => .pure rfl)
      (.andThen (.update fun _ => ⟨rfl, id⟩) (.pure _)) h
  | fixp order c w =>
    refine .of_recording (.andThen (.require _ rfl) fun ⟨_, hc, _⟩ =>
        .bind (predictorChecks_ensures _ _ _) fun n ⟨hn, hle⟩ =>
        .andThen (fixedRecon_stays _ _ fun i _ => (allowed hc).smp n hn hle i) fun _ => .pure rfl) ?_ h
    exact .andThen (.require _ _) <| .bind (predictorChecks_records _ _ _) fun _ =>
      .andThen (fixedRecon_records _ _ _ _) (.pure _)
  | lpcp order c w =>
    refine .of_recording (.andThen (.require _ rfl) fun ⟨_, _, hc, _⟩ =>
        .bind (predictorChecks_ensures _ _ _) fun n ⟨hn, hle⟩ =>
        .bind readShift_stays fun _ _ => .andThen (.require _ rfl) fun _ =>
        .andThen (lpcRecon_stays _ _ _ fun i _ => (allowed hc).smp n hn hle i) fun _ => .pure rfl) ?_ h
    exact .andThen (.require _ _) <| .bind (predictorChecks_records _ _ _) fun _ => .bind readShift_records fun _ =>
      .andThen (.require _ _) <| .andThen (lpcRecon_records _ _ _ _ _) (.pure _)
  | resd order =>
    exact .of_operation (fun _ => (allowed (Nat.zero_le 7)).residualSection_stays _) (residualSection_records _) h
  | subf c bps => exact .of_operation (fun ⟨hc, _⟩ => subframe_stays (allowed hc) _) (subframe_records _ _) h
  | decor a bps =>
    exact .of_operation (fun _ => decorrelator_stays _ fun _ n hn hle i hi =>
      ⟨(allowed (by omega)).smp n hn hle i hi, (allowed (by omega)).smp n hn hle i hi⟩) (decorrelator_records _ _) h
  | fhdr =>
    exact .of_recording (.andThen (frameHeader_ensures machineFootprint_allowsHeader).stays fun _ => .pure rfl)
      (.andThen frameHeader_records (.pure _)) h
  | fftr => exact .of_recording frameFooter_ensures frameFooter_records h
  | frame =>
    exact .of_recording (frameBody_ensures machineFootprint_allowsHeader fun _ hc => allowed hc) frameBody_records h
  | _ => exact absurd rfl hh

/-! The host's accesses to BUF, RES and SMP. -/

/-- A read after a write that is made only where its address names an entry. -/
theorem cellGet_writeIf {α : Type} {p : Prop} [Decidable p] (m : List (Nat × α)) (a : Nat) (v : α) (x : Nat) :
    cellGet (if p then cellSet m a v else m) x = if x = a ∧ p then some v else cellGet m x := by
  by_cases hp : p <;> simp [hp]

end Sys2Proof.Machine

open Sys2Proof Sys2Proof.Machine

/-- Settles O52: the parts of a command write nothing of the host's, clear no record and raise fatal codes only, and
either end of a command keeps the rest. -/
theorem instructionsKeepHostState : Obligations.InstructionsKeepHostState := by
  intro i s t h
  obtain ⟨⟨buf, len, scan, si, siValid, cfg, inbox, hostData, snap⟩, sticky, record, result⟩ := exec_hostFrame h
  refine ⟨buf, len, scan, si, siValid, cfg, inbox, hostData, snap, fun hs => ?_, record, fun hc => ?_, fun hc => ?_,
    fun h1 h2 h3 h4 => result ?_⟩
  · rw [sticky, hs, Bool.or_true]
  · rw [sticky, hc, Bool.true_or]
  · rw [sticky, hc, Bool.false_or]
  · rintro (e | e | e | ⟨n, e | e | e⟩)
    exacts [h1 e, h2 e, h3 e, (h4 n).1 e, (h4 n).2.1 e, (h4 n).2.2 e]

/-- Settles O60: each access by the step that serves it; a write by what its cell reads afterwards. -/
theorem hostReachesBuffers : Obligations.HostReachesBuffers := by
  refine fun s a b v rest hsub => ⟨fun hin ha => ?readBuf, fun hin ha => ?writeBuf, fun hin => ?readRes,
    fun hin => ?readSmp, fun hin => ?writeRes, fun hin => ?writeSmp⟩ <;>
    rw [step_of_access hsub hin (by simp), hostAccess]
  case readBuf => rw [if_pos ha]; exact ⟨_, rfl, rfl, rfl⟩
  case writeBuf => rw [if_pos ha]; exact ⟨_, rfl, rfl, cellGet_cellSet _ _ _⟩
  case readRes | readSmp => exact ⟨_, rfl, rfl, rfl⟩
  case writeRes =>
    refine ⟨_, rfl, by split <;> rfl, fun x => ?_⟩
    rw [apply_ite State.res]
    exact cellGet_writeIf _ _ _ _
  case writeSmp =>
    refine ⟨_, rfl, by split <;> rfl, fun x => ?_⟩
    rw [apply_ite State.smp]
    exact cellGet_writeIf _ _ _ _

end


section
/-! SUPPORT. Decoder and encoder: the four fields of a command word, the three of a subframe header, what each format's decoder
accepts, and the operand ranges a command checks first. -/

namespace Sys2Proof

/-! The fields of a command word (30_encoding.md R100, R105). -/

section CommandWord

variable (op a b c : Byte)

/-- The command word with these fields, as `packCommand` makes it. -/
def packWord : CommandWord := c ++ b ++ a ++ op

theorem packCommand_eq : packCommand op a b c = .command (packWord op a b c) := rfl

@[simp] theorem commandField_packWord_op : commandField (packWord op a b c) 0 = op :=
  BitVec.extractLsb'_append_eq_right

@[simp] theorem commandField_packWord_a : commandField (packWord op a b c) 8 = a :=
  (BitVec.extractLsb'_append_eq_of_le (xlo := op) le_rfl).trans BitVec.extractLsb'_append_eq_right

@[simp] theorem commandField_packWord_b : commandField (packWord op a b c) 16 = b :=
  (BitVec.extractLsb'_append_eq_of_le (xlo := op) (by decide)).trans <|
    (BitVec.extractLsb'_append_eq_of_le (xlo := a) le_rfl).trans BitVec.extractLsb'_append_eq_right

@[simp] theorem commandField_packWord_c : commandField (packWord op a b c) 24 = c :=
  (BitVec.extractLsb'_append_eq_of_le (xlo := op) (by decide)).trans <|
    (BitVec.extractLsb'_append_eq_of_le (xlo := a) (by decide)).trans BitVec.extractLsb'_append_eq_left

/-- A command word is made of its four fields. -/
theorem packWord_commandFields (w : CommandWord) :
    packWord (commandField w 0) (commandField w 8) (commandField w 16) (commandField w 24) = w := by
  have hcb : commandField w 24 ++ commandField w 16 = w.extractLsb' 16 16 :=
    BitVec.extractLsb'_append_extractLsb'_eq_extractLsb' rfl
  have hcba : w.extractLsb' 16 16 ++ commandField w 8 = w.extractLsb' 8 24 :=
    BitVec.extractLsb'_append_extractLsb'_eq_extractLsb' rfl
  have hw : w.extractLsb' 8 24 ++ commandField w 0 = w :=
    (BitVec.extractLsb'_append_extractLsb'_eq_extractLsb' rfl).trans BitVec.extractLsb'_eq_self
  rw [packWord, hcb, hcba, hw]

variable {op a b c}

/-- A word whose fields are known is the packing of them. -/
theorem packCommand_of_fields {w : CommandWord} (hop : (commandField w 0).toNat = op.toNat) (ha : commandField w 8 = a)
    (hb : commandField w 16 = b) (hc : commandField w 24 = c) : packCommand op a b c = .command w := by
  rw [packCommand_eq, ← BitVec.eq_of_toNat_eq hop, ← ha, ← hb, ← hc, packWord_commandFields]

end CommandWord

/-- A command with unused fields is accepted exactly where they are zero (R101). -/
theorem whenZero_eq_ok {unused : List Byte} {i j : Instr} :
    whenZero unused i = .ok j ↔ (∀ f ∈ unused, f = 0#8) ∧ i = j := by
  have all_zero : (∀ f ∈ unused, f = 0#8) ↔ unused.all (· == 0#8) = true := by simp
  rw [whenZero, all_zero]
  split <;> simp [*]

/-- A word that decodes encodes what it decodes to: each of its fields is its opcode, an operand, or checked to be zero. -/
theorem encode_of_decodeCommand {w : CommandWord} {i : Instr} (h : decodeCommand w = .ok i) : encode i = .command w := by
  unfold decodeCommand at h
  split at h
  case h_1 hop | h_2 hop | h_4 hop | h_11 hop =>
    obtain ⟨unused, rfl⟩ := whenZero_eq_ok.1 h
    exact packCommand_of_fields hop rfl (unused _ (by simp)) (unused _ (by simp))
  case h_12 hop | h_13 hop =>
    obtain ⟨unused, rfl⟩ := whenZero_eq_ok.1 h
    exact packCommand_of_fields hop rfl rfl (unused _ (by simp))
  case h_9 hop | h_10 hop =>
    cases h
    exact packCommand_of_fields hop rfl rfl rfl
  case h_3 hop | h_5 hop | h_6 hop | h_7 hop | h_8 hop | h_14 hop | h_15 hop | h_16 hop =>
    obtain ⟨unused, rfl⟩ := whenZero_eq_ok.1 h
    exact packCommand_of_fields hop (unused _ (by simp)) (unused _ (by simp)) (unused _ (by simp))
  case h_17 => cases h

/-! The fields of a subframe header (30_encoding.md R130). -/

theorem decode_packSubframeHeader : ∀ (t : BitVec 6) (f : Bool), decode (packSubframeHeader t f) = classifyHeader t f := by
  decide

/-- A header byte is made of its padding bit, which is 0, its type code and its flag. -/
theorem packSubframeHeader_of_fields : ∀ b : Byte, b.getLsbD 7 = false →
    packSubframeHeader (b.extractLsb' 1 6) (b.getLsbD 0) = .subframeHeader b := by
  decide

/-- The type code of an LPC header is 1 before the five bits of its order less one. -/
theorem lpcTypeCode_eq : ∀ t : BitVec 6, 32 ≤ t.toNat → 1#1 ++ t.setWidth 5 = t := by decide

theorem classifyHeader_lpcTypeCode : ∀ (o : BitVec 5) (f : Bool), classifyHeader (1#1 ++ o) f = .ok (.sfLpc o f) := by
  decide

/-- A type code that is not reserved is the one its kind encodes. -/
theorem encode_of_classifyHeader {t : BitVec 6} {f : Bool} {i : Instr} (h : classifyHeader t f = .ok i) :
    encode i = packSubframeHeader t f := by
  unfold classifyHeader at h
  split at h
  case isTrue lpc =>
    cases h
    exact congrArg (packSubframeHeader · f) (lpcTypeCode_eq t lpc)
  case isFalse =>
    split at h
    case h_1 code | h_2 code | h_3 code | h_4 code | h_5 code | h_6 code | h_7 code =>
      cases h
      exact congrArg (packSubframeHeader · f) (BitVec.eq_of_toNat_eq code.symm)
    case h_8 => cases h

theorem encode_of_decodeSubframeHeader {b : Byte} {i : Instr} (h : decodeSubframeHeader b = .ok i) :
    encode i = .subframeHeader b := by
  unfold decodeSubframeHeader at h
  split at h
  case isTrue => cases h
  case isFalse padding =>
    exact (encode_of_classifyHeader h).trans (packSubframeHeader_of_fields b (Bool.eq_false_iff.2 padding))

end Sys2Proof

namespace Sys2Proof.Machine

/-- An ill-formed instruction is a command whose operand check, the first thing it does, refuses it. -/
theorem exec_of_illFormed {i : Instr} (s : State) (h : i.wellFormed = false) :
    exec i s = .next (failed .illegalCommand s) := by
  cases i with
  | rdb | rds | rdr | fixp | lpcp | resd | subf | decor => exact runCommand_operandCheck (of_decide_eq_false h)
  | _ => cases h

/-- A value written to CMD is run as the command whose word it is, in range or not, or refused (R101, log 10). -/
theorem step_of_command {s : State} {v : Word} {rest : List HostAccess} (hsub : s.sub = none)
    (hin : s.inbox = .writeRegister 0x00 v :: rest) :
    (∃ i, v.toNat < 2 ^ 32 ∧ encode i = .command (v.setWidth 32) ∧ step s = exec i { s with inbox := rest }) ∨
    step s = .next (failed .illegalCommand { s with inbox := rest }) := by
  obtain ⟨i, hv, hi, e⟩ | e := issue_cases v { s with inbox := rest }
  · exact .inl ⟨i, hv, encode_of_decodeCommand hi, by rw [step, fetch_of_command hsub hin, e]⟩
  · exact .inr (by rw [step, fetch_of_command hsub hin, e, illegalWord_eq])

end Sys2Proof.Machine

open Sys2Proof Sys2Proof.Machine

/-- Settles O7: a command word gives back the fields it was packed of, and a header byte its type code and flag. -/
theorem decodeOfEncode : Obligations.DecodeOfEncode := by
  intro i
  cases i with
  | sfConstant f | sfVerbatim f | sfFixed0 f | sfFixed1 f | sfFixed2 f | sfFixed3 f | sfFixed4 f =>
    exact decode_packSubframeHeader _ f
  | sfLpc o f => exact (decode_packSubframeHeader _ f).trans (classifyHeader_lpcTypeCode o f)
  | _ => simp [encode, packCommand_eq, decode, decodeCommand, whenZero]

/-- Settles O8, for each of the two formats. -/
theorem encodeOfDecode : Obligations.EncodeOfDecode := by
  intro e i h
  cases e with
  | command w => exact encode_of_decodeCommand h
  | subframeHeader b => exact encode_of_decodeSubframeHeader h

/-- Settles O9: the operand check of each command that has operands. -/
theorem outOfRangeOperandIsIllegal : Obligations.OutOfRangeOperandIsIllegal := fun _ s h => exec_of_illFormed s h

/-- Settles O6: a word that decodes is the word of what it decodes to (O8), which is then not well-formed and refused by its
operand check (O9). -/
theorem refusedWordIsIllegalCommand : Obligations.RefusedWordIsIllegalCommand := by
  intro s v rest hsub hsnap hin hv
  have keepsSnap : failed .illegalCommand { s with inbox := rest } =
      { s with inbox := rest, code := .illegalCommand, sticky := true } := by rw [failed, hsnap]
  rw [← keepsSnap]
  obtain ⟨i, hlt, hi, e⟩ | e := step_of_command hsub hin
  · have illFormed : i.wellFormed = false := Bool.eq_false_iff.2 fun hw => hv ⟨i, hw, hi, hlt⟩
    rw [e, exec_of_illFormed _ illFormed]
  · exact e

/-- Settles O3 by O7: each word is, bit for bit, the encoding of the instruction it stands for. -/
theorem specWordsDecode : Obligations.SpecWordsDecode :=
  ⟨decodeOfEncode (.rdb 4), decodeOfEncode (.rds 4), decodeOfEncode (.rdr 2), decodeOfEncode (.fixp 2 0 16),
    decodeOfEncode (.resd 2), decodeOfEncode (.decor 8 16), decodeOfEncode (.subf 0 34), decodeOfEncode .frame,
    decodeOfEncode (.sfVerbatim true), decodeOfEncode (.sfFixed2 false), decodeOfEncode (.sfLpc 1 false)⟩

end

section
/-! SUPPORT. The Bit Cursor commands as whole commands: the word check that passes, a read of the cursor whose value goes to
RESULT, and how a Rice code can be refused after its unary part. -/

namespace Sys2Proof.Machine

variable {α : Type} {s t : State}

/-- An operand inside its range leaves the rest of the command to run (R101). -/
theorem runCommand_operandCheck_of {k : CommandKind} {p : Prop} [Decidable p] (h : p) (rest : Cmd Code) (s : State) :
    runCommand k ((operandCheck p).andThen rest) s = runCommand k rest s := by
  rw [operandCheck, require_of h, pure_andThen]

/-- A command that reads the cursor puts the value in RESULT and ends with OK. -/
theorem runCommand_read_of_ok {m : Cmd α} {a : α} (h : m (beginCommand s) = .ok a t) (g : α → Word) :
    runCommand .plain (m.bind fun v => finishWith (g v)) s = .next (endCommand .ok (setResult (g a) t)) :=
  runCommand_of_ok (bind_of_ok h)

/-- Where the read is refused, however far the cursor has come, only CODE and STICKY change (R302). -/
theorem runCommand_read_of_raised {m : Cmd α} {c : Code} (hm : Keeps CursorOnly m) (h : m (beginCommand s) = .raised c t)
    (g : α → Word) : runCommand .plain (m.bind fun v => finishWith (g v)) s = .next (failed c s) :=
  runCommand_plain_raised (bind_of_raised h) (hm.of_raised h)

/-! A Rice code that is refused (R153). -/

theorem readRice_of_none {k : Nat}
    (h : bitsAt s.buf s.pos.toNat (List.replicate (8 * s.len.toNat - s.pos.toNat) (!s.cfg.unaryStop)) = true) :
    readRice k s = .raised .malformedStream s := by
  rw [readRice, bind_of_raised (readUnary_of_none h)]

theorem readRice_of_quotient_too_large {k q : Nat} (hq : 2 ^ (64 - k) ≤ q) (hb : Bounded s)
    (hs : Stands s (unaryBits s.cfg.unaryStop q)) : readRice k s = .raised .malformedStream (moveBy (q + 1) s) := by
  rw [readRice, bind_of_ok (readUnary_of_stands hb hs), require_of_not hq.not_gt]
  rfl

theorem readRice_of_short {k q : Nat} (hq : q < 2 ^ (64 - k)) (hb : Bounded s)
    (hs : Stands s (unaryBits s.cfg.unaryStop q)) (h : 8 * s.len.toNat < s.pos.toNat + q + 1 + k) :
    readRice k s = .raised .outOfData (moveBy (q + 1) s) := by
  have hlt := hs.lt hb
  rw [length_unaryBits] at hlt
  have short : readBits k (moveBy (q + 1) s) = .raised .outOfData (moveBy (q + 1) s) :=
    readBits_of_short (by rw [moveBy_len, moveBy_pos hlt]; omega)
  rw [readRice, bind_of_ok (readUnary_of_stands hb hs), require_of hq, pure_andThen, bind_of_raised short]

end Sys2Proof.Machine

open Sys2Proof Sys2Proof.Machine

/-- Settles O15: their parts run to the end on every state. -/
theorem crcCommandsReadAndReset : Obligations.CrcCommandsReadAndReset := fun _ => ⟨rfl, rfl, rfl⟩

/-- Settles O10: RDB is its word check, then `ReadBits` with its value to RESULT. -/
theorem rdbReadsUnsignedField : Obligations.RdbReadsUnsignedField := by
  refine fun n s => ⟨fun v hn hv hb hs => ?value, fun hn => runCommand_operandCheck hn.not_ge, fun hn hend => ?short⟩
  case value =>
    exact (runCommand_operandCheck_of hn _ s).trans (runCommand_read_of_ok (readBits_of_stands hv hb hs) _)
  case short =>
    exact (runCommand_operandCheck_of hn _ s).trans
      (runCommand_read_of_raised (readBits_keeps _) (readBits_of_short hend) _)

/-- Settles O11: RDS is its word check, then `ReadSigned` with its value to RESULT; of width 0 it reads nothing. -/
theorem rdsReadsSignedField : Obligations.RdsReadsSignedField := by
  refine fun n s => ⟨fun hn => ?zero, fun v h1 hn hv hb hs => ?value, fun hn => runCommand_operandCheck hn.not_ge,
    fun h1 hn hend => ?short⟩
  case zero =>
    have reads : readSigned n.toNat (beginCommand s) = .ok 0 (beginCommand s) := by rw [hn, readSigned_zero]; rfl
    exact (runCommand_operandCheck_of (by omega) _ s).trans (runCommand_read_of_ok reads _)
  case value =>
    exact (runCommand_operandCheck_of hn _ s).trans (runCommand_read_of_ok (readSigned_of_stands h1 hv hb hs) _)
  case short =>
    exact (runCommand_operandCheck_of hn _ s).trans
      (runCommand_read_of_raised (readSigned_keeps _) (readSigned_of_short h1 hend) _)

/-- Settles O12: RDU is `ReadUnary` with its value to RESULT. -/
theorem rduReadsUnaryCode : Obligations.RduReadsUnaryCode := fun _ =>
  ⟨fun _ hb hs => runCommand_read_of_ok (readUnary_of_stands hb hs) _,
    fun h => runCommand_read_of_raised readUnary_keeps (readUnary_of_none h) _⟩

/-- Settles O13: RDR is its word check, then `ReadRice` with its value to RESULT; each of its three refusals is one of
`ReadRice`. -/
theorem rdrReadsRiceCode : Obligations.RdrReadsRiceCode := by
  intro k s
  have refused {c : Code} {t : State} (hk : k.toNat ≤ 30) (h : readRice k.toNat (beginCommand s) = .raised c t) :
      exec (.rdr k) s = .next (failed c s) :=
    (runCommand_operandCheck_of hk _ s).trans (runCommand_read_of_raised (readRice_keeps _) h _)
  refine ⟨fun v hk hv hb hs => ?value, fun hk => runCommand_operandCheck hk.not_ge,
    fun hk h => refused hk (readRice_of_none h),
    fun q hk hq hb hs hend => refused hk (readRice_of_short hq hb hs hend),
    fun q hk hq hb hs => refused hk (readRice_of_quotient_too_large hq hb hs)⟩
  exact (runCommand_operandCheck_of hk _ s).trans
    (runCommand_read_of_ok (readRice_of_stands (hk.trans (by decide)) hv hb hs) _)

/-- Settles O14: ALN is `ByteAlign`, on a boundary and inside a byte. -/
theorem alnAlignsToByte : Obligations.AlnAlignsToByte := by
  refine fun s => ⟨fun h => ?boundary, fun h hb hpos hbyte => ?inside⟩
  case boundary =>
    have aligned := byteAlign_of_aligned (s := beginCommand s) h
    exact runCommand_of_ok (t := beginCommand s) (andThen_of_ok aligned)
  case inside =>
    have noWrap : s.pos.toNat + 8 < 2 ^ 65 := by have : s.len.toNat ≤ 2 ^ 61 := hb; omega
    have aligned := byteAlign_of_isSome (s := beginCommand s) hbyte noWrap
    have rest : (8 - s.pos.toNat % 8) % 8 = 8 - s.pos.toNat % 8 := Nat.mod_eq_of_lt (by omega)
    rw [beginCommand_pos, rest] at aligned
    exact runCommand_of_ok (t := moveBy _ (beginCommand s)) (andThen_of_ok aligned)

end

section
/-! SUPPORT. The two CRC engines (41_bitcursor.md R160, R161) as shift registers: a step of either loses nothing, since its
polynomial has the bit 1, so two different accumulators, and two different bytes, never meet again. -/

namespace Sys2Proof.Machine

/-! One shift. -/

/-- A shift of a CRC register of any width with any polynomial. -/
def crcShift {w : Nat} (poly c : BitVec w) : BitVec w :=
  if c.getLsbD (w - 1) then (c <<< 1) ^^^ poly else c <<< 1

theorem crc8Shift_eq : crc8Shift = crcShift 0x07#8 := rfl

theorem crc16Shift_eq : crc16Shift = crcShift 0x8005#16 := rfl

theorem crcShift_of_low {w : Nat} (poly : BitVec w) {c : BitVec w} (h : c.getLsbD (w - 1) = false) :
    crcShift poly c = c <<< 1 := by
  simp [crcShift, h]

@[simp] theorem crcShift_zero {w : Nat} (poly : BitVec w) : crcShift poly 0 = 0 := by simp [crcShift]

theorem getLsbD_crcShift {w : Nat} (poly c : BitVec w) (j : Nat) :
    (crcShift poly c).getLsbD j = ((c <<< 1).getLsbD j ^^ (c.getLsbD (w - 1) && poly.getLsbD j)) := by
  unfold crcShift
  split_ifs with h <;> simp [h]

/-- Bit 0 of the shifted register is the bit that left it, where the polynomial has that bit. -/
theorem crcShift_lowBit {w : Nat} {poly : BitVec w} (hp : poly.getLsbD 0 = true) (c : BitVec w) :
    (crcShift poly c).getLsbD 0 = c.getLsbD (w - 1) := by
  simp [getLsbD_crcShift, hp]

/-- A shift loses nothing: bit 0 tells which bit left the register, and so whether the polynomial was added. -/
theorem crcShift_injective {w : Nat} {poly : BitVec w} (hp : poly.getLsbD 0 = true) :
    Function.Injective (crcShift poly) := by
  intro c d h
  have top : c.getLsbD (w - 1) = d.getLsbD (w - 1) := by
    rw [← crcShift_lowBit hp c, h, crcShift_lowBit hp d]
  refine BitVec.eq_of_getLsbD_eq fun j hj => ?_
  by_cases hlast : j = w - 1
  · rw [hlast, top]
  · have bit := congrArg (BitVec.getLsbD · (j + 1)) h
    have inside : j + 1 < w := by omega
    simpa [getLsbD_crcShift, top, inside, -BitVec.getLsbD_eq_getElem] using bit

/-- Shifts that push only zeros out of the register add no polynomial. -/
theorem crcShift_iterate_of_low {w : Nat} (poly : BitVec w) :
    ∀ {n : Nat} {c : BitVec w}, n ≤ w → (∀ j, w - n ≤ j → c.getLsbD j = false) → (crcShift poly)^[n] c = c <<< n
  | 0, c, _, _ => by simp
  | n + 1, c, hn, h => by
    rw [Function.iterate_succ_apply, crcShift_of_low poly (h _ (by omega)), crcShift_iterate_of_low poly (by omega),
      ← BitVec.shiftLeft_add, Nat.add_comm]
    intro j hj
    rw [BitVec.getLsbD_shiftLeft, h (j - 1) (by omega), Bool.and_false]

/-! One byte. -/

theorem crc8Byte_left_injective (b : Byte) : Function.Injective (crc8Byte · b) :=
  ((crcShift_injective (by decide)).iterate 8).comp fun _ _ h => (BitVec.xor_left_inj _).1 h

theorem crc8Byte_right_injective (c : BitVec 8) : Function.Injective (crc8Byte c) :=
  ((crcShift_injective (by decide)).iterate 8).comp fun _ _ h => (BitVec.xor_right_inj _).1 h

theorem crc16Byte_left_injective (b : Byte) : Function.Injective (crc16Byte · b) :=
  ((crcShift_injective (by decide)).iterate 8).comp fun _ _ h => (BitVec.xor_left_inj _).1 h

/-- A byte enters the high half of the CRC-16 register, from where it can be read back. -/
theorem highHalf_injective : Function.Injective fun b : Byte => b.setWidth 16 <<< 8 := by
  intro b b' h
  have back : ∀ x : Byte, (x.setWidth 16 <<< 8).extractLsb' 8 8 = x := by decide
  rw [← back b, ← back b']
  exact congrArg (BitVec.extractLsb' 8 8) h

theorem crc16Byte_right_injective (c : BitVec 16) : Function.Injective (crc16Byte c) :=
  ((crcShift_injective (by decide)).iterate 8).comp fun _ _ h => highHalf_injective ((BitVec.xor_right_inj _).1 h)

/-- The accumulator fed its own value is 0 (R164). -/
theorem crc8Byte_self (c : BitVec 8) : crc8Byte c c = 0 := by
  rw [crc8Byte, BitVec.xor_self, crc8Shift_eq]
  exact Function.iterate_fixed (crcShift_zero _) 8

/-- Adding the high byte to the register clears it there and leaves the low one. -/
theorem xor_highByte (c : BitVec 16) :
    c ^^^ ((c.extractLsb' 8 8).setWidth 16 <<< 8) = (c.extractLsb' 0 8).setWidth 16 := by
  refine BitVec.eq_of_getLsbD_eq fun j hj => ?_
  simp only [BitVec.getLsbD_xor, BitVec.getLsbD_shiftLeft, BitVec.getLsbD_setWidth, BitVec.getLsbD_extractLsb']
  by_cases hlow : j < 8
  · simp [hlow, hj]
  · have shifted : 8 + (j - 8) = j := by omega
    have inHigh : j - 8 < 8 := by omega
    simp [hlow, hj, shifted, inHigh, inHigh.trans]

/-- Fed its own high byte, the accumulator keeps its low byte, in the high half. -/
theorem crc16Byte_highByte (c : BitVec 16) :
    crc16Byte c (c.extractLsb' 8 8) = (c.extractLsb' 0 8).setWidth 16 <<< 8 := by
  rw [crc16Byte, xor_highByte, crc16Shift_eq]
  refine crcShift_iterate_of_low _ (by decide) fun j hj => ?_
  rw [BitVec.getLsbD_setWidth, BitVec.getLsbD_of_ge _ j hj, Bool.and_false]

/-- The accumulator fed its own two bytes, high byte first, is 0 (R164). -/
theorem crc16Byte_self (c : BitVec 16) : crc16Byte (crc16Byte c (c.extractLsb' 8 8)) (c.extractLsb' 0 8) = 0 := by
  rw [crc16Byte_highByte, crc16Byte, BitVec.xor_self, crc16Shift_eq]
  exact Function.iterate_fixed (crcShift_zero _) 8

/-! A string of bytes. -/

variable {σ β : Type} {f : σ → β → σ}

/-- Different accumulators stay different over any string. -/
theorem foldl_injective (h : ∀ b, Function.Injective (f · b)) : ∀ bs : List β, Function.Injective (bs.foldl f)
  | [] => Function.injective_id
  | b :: bs => (foldl_injective h bs).comp (h b)

/-- A string in which one byte is changed leaves another accumulator. -/
theorem foldl_ne_of_changed (hc : ∀ b, Function.Injective (f · b)) (hb : ∀ c, Function.Injective (f c))
    (before after : List β) {b b' : β} (h : b ≠ b') (c : σ) :
    (before ++ b :: after).foldl f c ≠ (before ++ b' :: after).foldl f c := by
  rw [List.foldl_append, List.foldl_append]
  exact (foldl_injective hc after).ne ((hb _).ne h)

end Sys2Proof.Machine

open Sys2Proof Sys2Proof.Machine

/-- Settles O17: the residues by feeding an accumulator its own bytes, the detection by the injectivity of each byte's step. -/
theorem crcResidueAndDetection : Obligations.CrcResidueAndDetection := by
  refine ⟨fun bytes => ⟨?crc8, ?crc16⟩, fun before after b b' c8 c16 h => ⟨?_, ?_⟩⟩
  case crc8 =>
    rw [List.foldl_append]
    exact crc8Byte_self _
  case crc16 =>
    rw [List.foldl_append]
    exact crc16Byte_self _
  · exact foldl_ne_of_changed crc8Byte_left_injective crc8Byte_right_injective before after h c8
  · exact foldl_ne_of_changed crc16Byte_left_injective crc16Byte_right_injective before after h c16

end

section
/-! SUPPORT. What FIXP and LPCP read before any write: registers that hold values, and the checks of their inputs. -/

namespace Sys2Proof.Machine

variable {s : State} {order c w : Nat} {warmup : List Int}

/-! Registers. -/

theorem registersDefined_iff (s : State) (ns : List Nat) :
    RegistersDefined s ns ↔ ∀ n ∈ ns, s.undef.getLsbD n = false := by
  simp [RegistersDefined]

theorem registersDefined_cons {s : State} {n : Nat} {ns : List Nat} :
    RegistersDefined s (n :: ns) ↔ s.undef.getLsbD n = false ∧ RegistersDefined s ns := by
  simp [RegistersDefined]

theorem readShift_of_defined {s : State} (h : s.undef.getLsbD 0x34 = false) : readShift s = .ok s.sf.shift.toInt s := by
  rw [readShift, andThen_of_ok (useRegister_of_defined h), read_apply]

theorem readQlp_of_defined {j : Nat} {s : State} (h : s.undef.getLsbD (0x40 + j) = false) :
    readQlp j s = .ok (qlpOf s j) s := by
  rw [readQlp, andThen_of_ok (useRegister_of_defined h), read_apply]

/-! The checks (R180, R182, R188). -/

theorem require_congr {p q : Prop} [Decidable p] [Decidable q] (h : p ↔ q) (c : Code) :
    Cmd.require p c = Cmd.require q c := by
  unfold Cmd.require; simp only [h]

/-- The check of one warm-up sample. -/
def warmupCheck (c w j : Nat) : Cmd Unit := (readSmp c j).bind fun v => Cmd.require (InRange v w) .illegalCommand

theorem predictorChecks_eq (order c w : Nat) : predictorChecks order c w = checkedNblk.bind fun nblk =>
    (Cmd.require (order ≤ nblk) .illegalCommand).andThen <|
    (Cmd.forRange (warmupCheck c w) order 0).andThen (Cmd.pure nblk) := rfl

theorem smpAddress_succ (c i : Nat) : smpAddress c (i + 1) = smpAddress c i + 1 := by unfold smpAddress; omega

theorem warmupCheck_of_get {j : Nat} {v : Int} (hv : FitsEntry v)
    (h : cellGet s.smp (smpAddress c j) = some (wordOfInt v)) :
    warmupCheck c w j s = Cmd.require (InRange v w) .illegalCommand s :=
  bind_of_ok (by simp [readSmp, h, toInt_wordOfInt hv])

/-- The loop over the warm-up samples: it only reads, and raises where one of them does not fit. -/
theorem warmupLoop_of_holds : ∀ {vs : List Int} {j : Nat}, holdsAt s.smp (smpAddress c j) vs = true →
    (∀ v ∈ vs, FitsEntry v) →
    Cmd.forRange (warmupCheck c w) vs.length j s = Cmd.require (∀ v ∈ vs, InRange v w) .illegalCommand s
  | [], _, _, _ => by simp
  | v :: vs, j, hh, hf => by
    obtain ⟨hv, hvs⟩ := List.forall_mem_cons.mp hf
    simp only [holdsAt, Bool.and_eq_true, decide_eq_true_eq, ← smpAddress_succ] at hh
    have ih := warmupLoop_of_holds (vs := vs) (j := j + 1) hh.2 hvs
    have step := warmupCheck_of_get (w := w) hv hh.1
    rw [List.length_cons, forRange_succ]
    by_cases hw : InRange v w
    · rw [require_of hw] at step
      have hall : (∀ u ∈ v :: vs, InRange u w) ↔ ∀ u ∈ vs, InRange u w :=
        List.forall_mem_cons.trans (and_iff_right hw)
      rw [andThen_of_ok step, ih, require_congr hall]
    · rw [require_of_not hw] at step
      have hall : ¬ ∀ u ∈ v :: vs, InRange u w := fun h => hw (List.forall_mem_cons.mp h).1
      rw [andThen_of_raised step, require_of_not hall]; rfl

/-- What FIXP and LPCP are given before any residual: NBLK, and `order` warm-up samples in SMP[c]. -/
structure WarmupReady (order c : Nat) (warmup : List Int) (s : State) : Prop where
  nblk : NblkReady s
  length : warmup.length = order
  order_le : order ≤ nblkOf s
  holds : holdsAt s.smp (smpAddress c 0) warmup = true
  fits : ∀ v ∈ warmup, FitsEntry v

theorem predictorChecks_of_order_gt (hn : NblkReady s) (h : nblkOf s < order) :
    predictorChecks order c w s = .raised .illegalCommand s := by
  rw [predictorChecks_eq, bind_of_ok (checkedNblk_of_ready hn), require_of_not (by omega)]; rfl

theorem predictorChecks_of_ready (h : WarmupReady order c warmup s) :
    predictorChecks order c w s =
      ((Cmd.require (∀ v ∈ warmup, InRange v w) .illegalCommand).andThen (Cmd.pure (nblkOf s))) s := by
  have loop := warmupLoop_of_holds (w := w) h.holds h.fits
  rw [h.length] at loop
  rw [predictorChecks_eq, bind_of_ok (checkedNblk_of_ready h.nblk), require_of h.order_le, pure_andThen]
  simp only [Cmd.andThen, Cmd.bind, loop]

/-! The commands behind their word check. -/

/-- FIXP behind its word check (R180). -/
def fixpBody (order c w : Nat) : Cmd Code :=
  (predictorChecks order c w).bind fun nblk => (fixedRecon order nblk c w).andThen (Cmd.pure .ok)

/-- LPCP behind its word check (R182). -/
def lpcpBody (order c w : Nat) : Cmd Code :=
  (predictorChecks order c w).bind fun nblk =>
  readShift.bind fun shift =>
  (Cmd.require (0 ≤ shift) .malformedStream).andThen <|
  (lpcRecon order shift.toNat nblk c w).andThen (Cmd.pure .ok)

theorem exec_fixp {order c w : Byte} (hwf : (Instr.fixp order c w).wellFormed = true) (s : State) :
    exec (.fixp order c w) s =
      runCommand (.predictor c.toNat order.toNat) (fixpBody order.toNat c.toNat w.toNat) s :=
  runCommand_operandCheck_of (of_decide_eq_true hwf) _ s

theorem exec_lpcp {order c w : Byte} (hwf : (Instr.lpcp order c w).wellFormed = true) (s : State) :
    exec (.lpcp order c w) s =
      runCommand (.predictor c.toNat order.toNat) (lpcpBody order.toNat c.toNat w.toNat) s :=
  runCommand_operandCheck_of (of_decide_eq_true hwf) _ s

/-- Inputs the checks refuse make either command IllegalCommand. -/
theorem exec_of_checks_raised {i : Instr} {order c w : Byte} (hi : i = .fixp order c w ∨ i = .lpcp order c w)
    (hwf : i.wellFormed = true) (h : predictorChecks order.toNat c.toNat w.toNat (beginCommand s) =
      .raised .illegalCommand (beginCommand s)) : exec i s = .next (failed .illegalCommand s) := by
  obtain rfl | rfl := hi
  · rw [exec_fixp hwf]; exact runCommand_illegal (bind_of_raised h)
  · rw [exec_lpcp hwf]; exact runCommand_illegal (bind_of_raised h)

end Sys2Proof.Machine

open Sys2Proof Sys2Proof.Machine

/-- Settles O21: both commands begin with the same checks, which only read. -/
theorem predictorsRefuseBadInputs : Obligations.PredictorsRefuseBadInputs := by
  intro i order c w s hi hwf hn
  refine ⟨fun h => ?_, fun warmup ho hlen hh hf ⟨v, hv, hw⟩ => ?_⟩
  · exact exec_of_checks_raised hi hwf (predictorChecks_of_order_gt hn h)
  · have ready : WarmupReady order.toNat c.toNat warmup (beginCommand s) := ⟨hn, hlen, ho, hh, hf⟩
    have bad : ¬ ∀ v ∈ warmup, InRange v w.toNat := fun h => hw (h v hv)
    refine exec_of_checks_raised hi hwf ?_
    rw [predictorChecks_of_ready ready, require_of_not bad]; rfl

end

section
/-! SUPPORT. The reconstruction of a block: FIXP and LPCP are one loop over two predictions. What the loop does over samples
that fit and up to the first one that does not, and how the two commands end. -/

namespace Sys2Proof.Machine

/-! The loop (R180, R182, R186). -/

theorem inRange_fitsEntry {v : Int} {w : Nat} (hw : w ≤ 33) (h : InRange v w) : FitsEntry v := inRange_mono h (by omega)

@[simp] theorem length_follow (qs : List Int) (shift : Nat) : ∀ h rs : List Int, (follow qs shift h rs).length = rs.length
  | _, [] => rfl
  | h, r :: rs => by rw [follow, List.length_cons, List.length_cons, length_follow]

@[simp] theorem length_rebuild (qs : List Int) (shift : Nat) (warmup residuals : List Int) :
    (rebuild qs shift warmup residuals).length = warmup.length + residuals.length := by
  rw [rebuild, List.length_append, length_follow]

/-- The first sample of a block that is outside the width: all before it are inside. -/
theorem exists_first_outside {qs : List Int} {shift w : Nat} :
    ∀ {residuals warmup : List Int}, (∀ v ∈ warmup, InRange v w) →
      (∃ v ∈ rebuild qs shift warmup residuals, ¬ InRange v w) →
      ∃ before r after, residuals = before ++ r :: after ∧ (∀ v ∈ rebuild qs shift warmup before, InRange v w) ∧
        ¬ InRange (r + (weigh qs (rebuild qs shift warmup before).reverse >>> shift)) w
  | [], warmup, hwarm, ⟨v, hv, hout⟩ => absurd (hwarm v (by simpa [rebuild, follow] using hv)) hout
  | r :: rs, warmup, hwarm, ⟨v, hv, hout⟩ => by
    have next : ∀ rs, rebuild qs shift warmup (r :: rs) =
        rebuild qs shift (warmup ++ [r + (weigh qs warmup.reverse >>> shift)]) rs := fun rs => by
      simp [rebuild, follow]
    by_cases hin : InRange (r + (weigh qs warmup.reverse >>> shift)) w
    · have hwarm' : ∀ v ∈ warmup ++ [r + (weigh qs warmup.reverse >>> shift)], InRange v w :=
        List.forall_mem_append.mpr ⟨hwarm, List.forall_mem_singleton.mpr hin⟩
      obtain ⟨before, r', after, rfl, hbefore, hout'⟩ := exists_first_outside hwarm' ⟨v, next rs ▸ hv, hout⟩
      exact ⟨r :: before, r', after, rfl, by rwa [next], by rwa [next]⟩
    · have start : rebuild qs shift warmup [] = warmup := List.append_nil warmup
      exact ⟨[], r, rs, rfl, by rwa [start], by rwa [start]⟩

theorem forRange_append (body : Nat → Cmd Unit) (n : Nat) : ∀ m i,
    Cmd.forRange body (m + n) i = (Cmd.forRange body m i).andThen (Cmd.forRange body n (i + m))
  | 0, i => by rw [Nat.zero_add]; rfl
  | m + 1, i => by
    rw [Nat.add_right_comm, forRange_succ, forRange_succ, forRange_append body n m (i + 1), Nat.add_right_comm i 1 m]
    exact (bind_assoc _ _ _).symm

/-- One turn of the loop: a sample is its residual plus its prediction. -/
def reconstructStep (prediction : Nat → Cmd Int) (order c w i : Nat) : Cmd Unit :=
  (readRes (i - order)).bind fun r =>
  (prediction i).bind fun p =>
  (Cmd.require (InRange (r + p) w) .malformedStream).andThen <|
  writeSmp c i (r + p)

theorem reconstruct_eq (prediction : Nat → Cmd Int) (order nblk c w : Nat) :
    reconstruct prediction order nblk c w =
      Cmd.forRange (reconstructStep prediction order c w) (nblk - order) order := rfl

/-- The prediction is the shifted weighted sum of the samples before it, whatever SMP holds elsewhere. -/
def Predicts (prediction : Nat → Cmd Int) (qs : List Int) (shift order c : Nat) (s : State) : Prop :=
  ∀ (ys : List Int) (t : State), t = { s with smp := t.smp } → order ≤ ys.length → (∀ v ∈ ys, FitsEntry v) →
    holdsAt t.smp (smpAddress c 0) ys = true → prediction ys.length t = .ok (weigh qs ys.reverse >>> shift) t

theorem fixedPrediction_predicts {order : Nat} (h : order ≤ 4) (c : Nat) (s : State) :
    Predicts (fixedPrediction order c) (fixedCoefficients order) 0 order c s :=
  fun _ _ _ ho hf hh => fixedPrediction_of_holds h ho hh hf

theorem lpcPrediction_predicts {order : Nat} (shift c : Nat) {s : State}
    (h : RegistersDefined s ((List.range order).map (0x40 + ·))) :
    Predicts (lpcPrediction order shift c) (coefficientsOf s order) shift order c s := by
  intro ys t ht ho hf hh
  have registers : RegistersDefined t ((List.range order).map (0x40 + ·)) := by rw [ht]; exact h
  have coefficients : coefficientsOf t order = coefficientsOf s order := by rw [ht]; rfl
  rw [lpcPrediction_of_holds ho registers hh hf, coefficients]

/-- RES holds the residuals of the rest of the block. -/
structure ResidualsReady (order : Nat) (residuals : List Int) (s : State) : Prop where
  length : order + residuals.length = nblkOf s
  holds : holdsAt s.res 0 residuals = true
  fits : ∀ r ∈ residuals, FitsEntry r

theorem WarmupReady.begin {order c : Nat} {warmup : List Int} {s : State} (h : WarmupReady order c warmup s) :
    WarmupReady order c warmup (beginCommand s) := ⟨h.nblk, h.length, h.order_le, h.holds, h.fits⟩

theorem WarmupReady.of_inRange {order c w : Nat} {warmup : List Int} {s : State} (hw : w ≤ 33) (hn : NblkReady s)
    (hlen : warmup.length = order) (ho : order ≤ nblkOf s) (hh : holdsAt s.smp (smpAddress c 0) warmup = true)
    (h : ∀ v ∈ warmup, InRange v w) : WarmupReady order c warmup s :=
  ⟨hn, hlen, ho, hh, fun v hv => inRange_fitsEntry hw (h v hv)⟩

theorem ResidualsReady.begin {order : Nat} {residuals : List Int} {s : State} (h : ResidualsReady order residuals s) :
    ResidualsReady order residuals (beginCommand s) := ⟨h.length, h.holds, h.fits⟩

/-- Writing the followed samples behind the warm-up samples makes the block. -/
theorem holdsAt_rebuild {m : Entries} {c : Nat} {qs warmup residuals : List Int} {shift : Nat}
    (h : holdsAt m (smpAddress c 0) warmup = true) :
    holdsAt (cellsSet m (smpAddress c warmup.length) ((follow qs shift warmup.reverse residuals).map wordOfInt))
      (smpAddress c 0) (rebuild qs shift warmup residuals) = true := by
  have addr : smpAddress c 0 + warmup.length = smpAddress c warmup.length := (smpAddress_eq_add c _).symm
  rw [rebuild, holdsAt_append, Bool.and_eq_true, addr]
  refine ⟨?_, holdsAt_cellsSet _ _ _⟩
  rw [← h]
  exact holdsAt_congr fun x _ hx => sameOutside_cellsSet _ _ _ x (.inl (by omega))

section Loop

variable {s : State} {order c w shift : Nat} {warmup residuals qs : List Int} {prediction : Nat → Cmd Int}

/-- Samples that all fit: the loop writes those after the warm-up samples. -/
theorem reconstruct_of_fits (hw : w ≤ 33) (hp : Predicts prediction qs shift order c s)
    (hs : WarmupReady order c warmup s) (hr : ResidualsReady order residuals s)
    (hin : ∀ v ∈ rebuild qs shift warmup residuals, InRange v w) :
    reconstruct prediction order (nblkOf s) c w s = .ok () { s with
      smp := cellsSet s.smp (smpAddress c order) ((follow qs shift warmup.reverse residuals).map wordOfInt) } := by
  obtain ⟨-, rfl, -, hh, hf⟩ := hs
  obtain ⟨hlen, hres, hrf⟩ := hr
  rw [reconstruct_eq, show nblkOf s - warmup.length = residuals.length by omega]
  exact reconstruct_of_holds (by omega) hp le_rfl hh hf (by rwa [Nat.sub_self]) hrf fun v hv =>
    hin v (List.mem_append_right _ hv)

theorem reconstructStep_of_outside {i : Nat} {r p : Int} {t : State} (hr : readRes (i - order) t = .ok r t)
    (hp : prediction i t = .ok p t) (hout : ¬ InRange (r + p) w) :
    reconstructStep prediction order c w i t = .raised .malformedStream t := by
  rw [reconstructStep, bind_of_ok hr, bind_of_ok hp, require_of_not hout]; rfl

/-- A sample that does not fit: the loop raises at the first one, having written those before it (R186). -/
theorem reconstruct_of_outside (hw : w ≤ 33) (hp : Predicts prediction qs shift order c s)
    (hs : WarmupReady order c warmup s) (hwarm : ∀ v ∈ warmup, InRange v w) (hr : ResidualsReady order residuals s)
    (hout : ∃ v ∈ rebuild qs shift warmup residuals, ¬ InRange v w) :
    ∃ vs : List Word, vs.length ≤ residuals.length ∧ reconstruct prediction order (nblkOf s) c w s =
      .raised .malformedStream { s with smp := cellsSet s.smp (smpAddress c order) vs } := by
  obtain ⟨-, rfl, -, hh, hf⟩ := hs
  obtain ⟨hlen, hres, hrf⟩ := hr
  obtain ⟨before, r, after, rfl, hin, hx⟩ := exists_first_outside hwarm hout
  set block := rebuild qs shift warmup before
  set written := (follow qs shift warmup.reverse before).map wordOfInt with hwritten
  set t : State := { s with smp := cellsSet s.smp (smpAddress c warmup.length) written } with ht
  simp only [holdsAt_append, holdsAt, Bool.and_eq_true, decide_eq_true_eq, Nat.zero_add] at hres
  obtain ⟨hbefore, hr, -⟩ := hres
  have hblen : block.length = warmup.length + before.length := length_rebuild qs shift warmup before
  have first : Cmd.forRange (reconstructStep prediction warmup.length c w) before.length warmup.length s = .ok () t :=
    reconstruct_of_holds (by omega) hp le_rfl hh hf (by rwa [Nat.sub_self])
      (fun q hq => hrf q (List.mem_append_left _ hq)) fun v hv => hin v (List.mem_append_right _ hv)
  have held : holdsAt t.smp (smpAddress c 0) block = true := holdsAt_rebuild hh
  have residual : readRes (block.length - warmup.length) t = .ok r t := by
    rw [hblen, Nat.add_sub_cancel_left]
    simp [readRes, ht, hr, toInt_wordOfInt (hrf r (by simp))]
  have last : reconstructStep prediction warmup.length c w block.length t = .raised .malformedStream t :=
    reconstructStep_of_outside residual
      (hp block t rfl (by omega) (fun v hv => inRange_fitsEntry hw (hin v hv)) held) hx
  refine ⟨written, by simp [hwritten], ?_⟩
  have count : nblkOf s - warmup.length = before.length + (after.length + 1) := by
    rw [← hlen, List.length_append, List.length_cons, Nat.add_sub_cancel_left]
  rw [reconstruct_eq, count, forRange_append, andThen_of_ok first, forRange_succ, ← hblen, andThen_of_raised last]

end Loop

/-! The two commands (R180, R182, R302, R303). -/

/-- What a command does depends on what its parts do from the state it begins in. -/
theorem runCommand_congr {k : CommandKind} {m m' : Cmd Code} {s : State} (h : m (beginCommand s) = m' (beginCommand s)) :
    runCommand k m s = runCommand k m' s := by
  rw [runCommand, runCommand, h]

section Commands

variable {s : State} {warmup residuals : List Int}

theorem predictorChecks_of_fits {order c w : Nat} (hs : WarmupReady order c warmup s) (h : ∀ v ∈ warmup, InRange v w) :
    predictorChecks order c w s = .ok (nblkOf s) s := by
  rw [predictorChecks_of_ready hs, require_of h]; rfl

/-- FIXP with legal warm-up samples is its loop. -/
theorem exec_fixp_of_ready {order c w : Byte} (hwf : (Instr.fixp order c w).wellFormed = true)
    (hs : WarmupReady order.toNat c.toNat warmup s) (h : ∀ v ∈ warmup, InRange v w.toNat) :
    exec (.fixp order c w) s = runCommand (.predictor c.toNat order.toNat)
      ((fixedRecon order.toNat (nblkOf s) c.toNat w.toNat).andThen (Cmd.pure .ok)) s := by
  rw [exec_fixp hwf]
  exact runCommand_congr (bind_of_ok (predictorChecks_of_fits hs.begin h))

/-- LPCP with legal warm-up samples checks the shift and is its loop. -/
theorem exec_lpcp_of_ready {order c w : Byte} (hwf : (Instr.lpcp order c w).wellFormed = true)
    (hs : WarmupReady order.toNat c.toNat warmup s) (h : ∀ v ∈ warmup, InRange v w.toNat)
    (hdef : s.undef.getLsbD 0x34 = false) :
    exec (.lpcp order c w) s = runCommand (.predictor c.toNat order.toNat)
      ((Cmd.require (0 ≤ s.sf.shift.toInt) .malformedStream).andThen <|
        (lpcRecon order.toNat s.sf.shift.toInt.toNat (nblkOf s) c.toNat w.toNat).andThen (Cmd.pure .ok)) s := by
  rw [exec_lpcp hwf]
  refine runCommand_congr ?_
  have shift := readShift_of_defined (s := beginCommand s) hdef
  rw [lpcpBody, bind_of_ok (predictorChecks_of_fits hs.begin h), bind_of_ok shift]; rfl

end Commands

section Ends

variable {s : State} {order c w shift : Nat} {warmup residuals qs : List Int} {prediction : Nat → Cmd Int}

/-- A predictor over samples that fit ends with OK, SMP[c] holding the block. -/
theorem runCommand_reconstruct_ok (k : CommandKind) (hw : w ≤ 33)
    (hp : Predicts prediction qs shift order c (beginCommand s)) (hs : WarmupReady order c warmup s)
    (hr : ResidualsReady order residuals s) (hin : ∀ v ∈ rebuild qs shift warmup residuals, InRange v w) :
    ∃ t, runCommand k ((reconstruct prediction order (nblkOf s) c w).andThen (Cmd.pure .ok)) s = .next t ∧
      t = { s with smp := t.smp, code := .ok, snap := none } ∧
      holdsAt t.smp (smpAddress c 0) (rebuild qs shift warmup residuals) = true ∧
      SameOutside s.smp t.smp (smpAddress c order) residuals.length := by
  have loop := reconstruct_of_fits (s := beginCommand s) hw hp hs.begin hr.begin hin
  refine ⟨_, runCommand_of_ok (andThen_of_ok loop), rfl, ?_, ?_⟩
  · obtain ⟨-, rfl, -, hh, -⟩ := hs
    exact holdsAt_rebuild hh
  · rw [← length_follow qs shift warmup.reverse residuals, ← List.length_map (f := wordOfInt)]
    exact sameOutside_cellsSet _ _ _

/-- Erasing a range undoes the writes inside it. -/
theorem erasedRange_cellErase_cellsSet (m : Entries) (a : Nat) {vs : List Word} {count : Nat} (h : vs.length ≤ count) :
    ErasedRange m (cellErase (cellsSet m a vs) a count) a count := by
  refine ⟨fun x h1 h2 => by rw [cellGet_cellErase, if_pos ⟨h1, h2⟩], fun x hx => ?_⟩
  rw [cellGet_cellErase, if_neg (by omega)]
  exact sameOutside_cellsSet m a vs x (by omega)

/-- A predictor that raises MalformedStream, having written no more than the samples behind the warm-up samples, leaves them
UNDEF (R303). -/
theorem runCommand_predictor_malformed {body : Cmd Code} {vs : List Word}
    (hb : body (beginCommand s) = .raised .malformedStream
      { beginCommand s with smp := cellsSet s.smp (smpAddress c order) vs })
    (hvs : vs.length ≤ nblkOf s - order) :
    ∃ t, runCommand (.predictor c order) body s = .next t ∧ t = { failed .malformedStream s with smp := t.smp } ∧
      ErasedRange s.smp t.smp (smpAddress c order) (nblkOf s - order) :=
  ⟨_, runCommand_of_raised hb, rfl, erasedRange_cellErase_cellsSet s.smp _ hvs⟩

end Ends

/-- With no coefficients every sample is its residual (R187). -/
theorem follow_of_no_coefficients (shift : Nat) : ∀ h rs : List Int, follow [] shift h rs = rs
  | _, [] => rfl
  | h, r :: rs => by rw [follow, follow_of_no_coefficients]; simp [weigh]

/-- exec's widths are at most 33 (R102). -/
theorem width_le_of_wellFormed {i : Instr} {order c w : Byte} (hi : i = .fixp order c w ∨ i = .lpcp order c w)
    (hwf : i.wellFormed = true) : w.toNat ≤ 33 := by
  obtain rfl | rfl := hi
  · obtain ⟨-, -, -, h⟩ := of_decide_eq_true hwf; exact h
  · obtain ⟨-, -, -, -, h⟩ := of_decide_eq_true hwf; exact h

end Sys2Proof.Machine

open Sys2Proof Sys2Proof.Machine

/-- Settles O18: past its checks FIXP is the reconstruction loop over the fixed prediction. -/
theorem fixpReconstructsBlock : Obligations.FixpReconstructsBlock := by
  intro order c w warmup residuals s hwf hn hlen hblk hh hres hrf hin
  have hw := width_le_of_wellFormed (.inl rfl) hwf
  have hwarm : ∀ v ∈ warmup, InRange v w.toNat := fun v hv => hin v (List.mem_append_left _ hv)
  have ready := WarmupReady.of_inRange hw hn hlen (by omega) hh hwarm
  rw [exec_fixp_of_ready hwf ready hwarm]
  exact runCommand_reconstruct_ok _ hw (fixedPrediction_predicts (of_decide_eq_true hwf).1 _ _) ready
    ⟨by omega, hres, hrf⟩ hin

/-- Settles O19: past its checks LPCP is the reconstruction loop over the LPC prediction. -/
theorem lpcpReconstructsBlock : Obligations.LpcpReconstructsBlock := by
  intro order c w warmup residuals s hwf hn hdef hshift hlen hblk hh hres hrf hin
  have hw := width_le_of_wellFormed (.inr rfl) hwf
  obtain ⟨hdshift, hdqlp⟩ := registersDefined_cons.mp hdef
  have hwarm : ∀ v ∈ warmup, InRange v w.toNat := fun v hv => hin v (List.mem_append_left _ hv)
  have ready := WarmupReady.of_inRange hw hn hlen (by omega) hh hwarm
  rw [exec_lpcp_of_ready hwf ready hwarm hdshift, require_of hshift, pure_andThen]
  exact runCommand_reconstruct_ok _ hw (lpcPrediction_predicts (s := beginCommand s) _ _ hdqlp) ready
    ⟨by omega, hres, hrf⟩ hin

/-- Settles O22: the loop raises at the first sample outside the width, and R303 erases what it has written. -/
theorem sampleOutsideWidthIsMalformed : Obligations.SampleOutsideWidthIsMalformed := by
  intro i order c w qs shift warmup residuals s hi hwf hn hdef hlen hblk hh hres hwarm hrf hout
  have hw := width_le_of_wellFormed (hi.imp And.left And.left) hwf
  have ready := WarmupReady.of_inRange hw hn hlen (by omega) hh hwarm
  have residualsReady : ResidualsReady order.toNat residuals s := ⟨by omega, hres, hrf⟩
  have fails {prediction : Nat → Cmd Int} (hp : Predicts prediction qs shift order.toNat c.toNat (beginCommand s)) :=
    reconstruct_of_outside hw hp ready.begin hwarm residualsReady.begin hout
  have count : residuals.length = nblkOf s - order.toNat := by omega
  rw [count]
  obtain ⟨rfl, rfl, rfl⟩ | ⟨rfl, rfl, hs⟩ := hi
  · obtain ⟨vs, hvs, raised⟩ := fails (fixedPrediction_predicts (of_decide_eq_true hwf).1 _ _)
    rw [exec_fixp_of_ready hwf ready hwarm]
    exact runCommand_predictor_malformed (andThen_of_raised raised) (count ▸ hvs)
  · obtain ⟨hdshift, hdqlp⟩ := registersDefined_cons.mp (hdef rfl)
    obtain ⟨vs, hvs, raised⟩ := fails (lpcPrediction_predicts _ _ hdqlp)
    rw [exec_lpcp_of_ready hwf ready hwarm hdshift, hs, Int.toNat_natCast, require_of (Int.natCast_nonneg _), pure_andThen]
    exact runCommand_predictor_malformed (andThen_of_raised raised) (count ▸ hvs)

/-- Settles O23: the shift is checked before the loop, so nothing has been written. -/
theorem negativeShiftIsMalformed : Obligations.NegativeShiftIsMalformed := by
  intro order c w warmup s hwf hn hdef hshift hlen ho hh hwarm
  have hw := width_le_of_wellFormed (.inr rfl) hwf
  have ready := WarmupReady.of_inRange hw hn hlen ho hh hwarm
  rw [exec_lpcp_of_ready hwf ready hwarm (registersDefined_cons.mp hdef).1, require_of_not (by omega)]
  exact runCommand_predictor_malformed (vs := []) rfl (Nat.zero_le _)

/-- Settles O24: the block of order 0 is its residuals. -/
theorem fixpOrderZeroCopiesResiduals : Obligations.FixpOrderZeroCopiesResiduals := by
  intro c w residuals s hwf hn hlen hres hin
  have hw := width_le_of_wellFormed (.inl rfl) hwf
  have block : rebuild (fixedCoefficients (0 : Byte).toNat) 0 [] residuals = residuals :=
    follow_of_no_coefficients 0 [] residuals
  obtain ⟨t, e, ht, held, -⟩ := fixpReconstructsBlock 0 c w [] residuals s hwf hn rfl (by simpa using hlen) rfl hres
    (fun r hr => inRange_fitsEntry hw (hin r hr)) (by rwa [block])
  refine ⟨t, e, by rw [ht], fun i hi => ?_⟩
  rw [block] at held
  have hi : i < residuals.length := by omega
  rw [smpAddress_eq_add, (holdsAt_iff _ _ _).mp held i hi, ← (holdsAt_iff _ _ _).mp hres i hi, Nat.zero_add]

end

section
/-! SUPPORT. FIXP and LPCP run from two states that agree on what they read (42_predictor.md R189): a part of a command that
ends alike from two related states, and what the two commands may write. -/

namespace Sys2Proof.Machine

variable {α β : Type} {R : State → State → Prop}

/-! Parts run from two states. -/

/-- Two runs of a part have ended alike: with the same value, code or model fault, in states that R relates. -/
def Res.Alike (R : State → State → Prop) : Res α → Res α → Prop
  | .ok a t, .ok a' t' => a' = a ∧ R t t'
  | .raised c t, .raised c' t' => c' = c ∧ R t t'
  | .faulted f, .faulted f' => f' = f
  | _, _ => False

theorem Res.Alike.of_ok {a : α} {t : State} {r : Res α} (h : Res.Alike R (.ok a t) r) :
    ∃ t', r = .ok a t' ∧ R t t' := by
  cases r with
  | ok a' t' => obtain ⟨rfl, ht⟩ := h; exact ⟨t', rfl, ht⟩
  | raised _ _ | faulted _ => exact h.elim

theorem Res.Alike.of_raised {c : Code} {t : State} {r : Res α} (h : Res.Alike R (.raised c t) r) :
    ∃ t', r = .raised c t' ∧ R t t' := by
  cases r with
  | raised c' t' => obtain ⟨rfl, ht⟩ := h; exact ⟨t', rfl, ht⟩
  | ok _ _ | faulted _ => exact h.elim

theorem Res.Alike.of_faulted {f : Fault} {r : Res α} (h : Res.Alike R (.faulted f) r) : r = .faulted f := by
  cases r with
  | faulted f' => exact congrArg Res.faulted h
  | ok _ _ | raised _ _ => exact h.elim

/-- From two states that R relates, m ends alike. -/
def Parallel (R : State → State → Prop) (m : Cmd α) : Prop := ∀ s s', R s s' → (m s).Alike R (m s')

namespace Parallel

theorem pure (a : α) : Parallel R (Cmd.pure a) := fun _ _ h => ⟨rfl, h⟩

theorem raise (c : Code) : Parallel R (Cmd.raise c : Cmd α) := fun _ _ h => ⟨rfl, h⟩

theorem read {f : State → α} (h : ∀ s s', R s s' → f s' = f s) : Parallel R (Cmd.read f) :=
  fun s s' hs => ⟨h s s' hs, hs⟩

theorem update {f : State → State} (h : ∀ s s', R s s' → R (f s) (f s')) : Parallel R (Cmd.update f) :=
  fun s s' hs => ⟨rfl, h s s' hs⟩

theorem require (p : Prop) [Decidable p] (c : Code) : Parallel R (Cmd.require p c) := by
  unfold Cmd.require; split
  exacts [pure (), raise c]

/-- The rule of a sequence, where what the first part gives is known. -/
theorem bind_of {Q : α → Prop} {m : Cmd α} {k : α → Cmd β} (hm : Parallel R m)
    (hq : ∀ {s t a}, m s = .ok a t → Q a) (hk : ∀ a, Q a → Parallel R (k a)) : Parallel R (m.bind k) := by
  intro s s' h
  have alike := hm s s' h
  cases e : m s with
  | ok a t =>
    rw [e] at alike
    obtain ⟨t', e', ht⟩ := alike.of_ok
    rw [bind_of_ok e, bind_of_ok e']
    exact hk a (hq e) t t' ht
  | raised c t =>
    rw [e] at alike
    obtain ⟨t', e', ht⟩ := alike.of_raised
    rw [bind_of_raised e, bind_of_raised e']
    exact ⟨rfl, ht⟩
  | faulted f =>
    rw [e] at alike
    rw [bind_of_faulted e, bind_of_faulted alike.of_faulted]
    exact rfl

theorem bind {m : Cmd α} {k : α → Cmd β} (hm : Parallel R m) (hk : ∀ a, Parallel R (k a)) : Parallel R (m.bind k) :=
  bind_of (Q := fun _ => True) hm (fun _ => trivial) fun a _ => hk a

theorem andThen {m : Cmd α} {k : Cmd β} (hm : Parallel R m) (hk : Parallel R k) : Parallel R (m.andThen k) :=
  bind hm fun _ => hk

/-- What a check lets pass is known behind it. -/
theorem require_andThen {p : Prop} [Decidable p] {c : Code} {k : Cmd β} (hk : p → Parallel R k) :
    Parallel R ((Cmd.require p c).andThen k) := by
  by_cases h : p
  · rw [require_of h]; exact hk h
  · rw [require_of_not h]; exact raise c

theorem forRange {body : Nat → Cmd Unit} : ∀ {count first : Nat},
    (∀ i, first ≤ i → i < first + count → Parallel R (body i)) → Parallel R (Cmd.forRange body count first)
  | 0, _, _ => pure ()
  | _ + 1, i, h => andThen (h i le_rfl (by omega)) (forRange fun j h1 h2 => h j (by omega) (by omega))

end Parallel

/-! What the predictors read. -/

/-- The two states agree on NBLK, RES, SMP[c] and, for LPCP, SF_SHIFT and QLP, and on which of these registers a failed
command has left UNDEF. -/
structure SameInputs (lpc : Prop) (c : Nat) (s s' : State) : Prop where
  nblk : nblkOf s' = nblkOf s
  coefficients : lpc → s'.sf.shift = s.sf.shift ∧ s'.qlp = s.qlp
  marks : ∀ n, n = 0x21 ∨ (lpc ∧ (n = 0x34 ∨ (0x40 ≤ n ∧ n ≤ 0x5F))) → LeftUndef s' n = LeftUndef s n
  res : ∀ x, cellGet s'.res x = cellGet s.res x
  smp : ∀ j, j < 65536 → cellGet s'.smp (smpAddress c j) = cellGet s.smp (smpAddress c j)

/-- Reading a register, in one line: a model fault where a failed command has left it UNDEF, else the record of an unwritten
one (R303, log 4). -/
theorem useRegister_eq (n : Nat) (s : State) : useRegister n s =
    if LeftUndef s n = true then .faulted .undefRegister
    else .ok () { s with undefRead := s.undefRead || s.undef.getLsbD n } := by
  cases hu : s.undef.getLsbD n <;> cases hs : s.spoiled.getLsbD n
  · rw [useRegister_of_defined hu]; simp [LeftUndef, hu]
  · rw [useRegister_of_defined hu]; simp [LeftUndef, hu]
  · rw [useRegister_of_unwritten hu hs]; simp [LeftUndef, hu, hs]
  · rw [useRegister_of_spoiled hu hs]; simp [LeftUndef, hu, hs]

section Operations

variable {lpc : Prop} {c : Nat}

theorem SameInputs.note {s s' : State} (h : SameInputs lpc c s s') (b b' : Bool) :
    SameInputs lpc c { s with undefRead := b } { s' with undefRead := b' } :=
  ⟨h.nblk, h.coefficients, h.marks, h.res, h.smp⟩

theorem SameInputs.begin {s s' : State} (h : SameInputs lpc c s s') :
    SameInputs lpc c (beginCommand s) (beginCommand s') :=
  ⟨h.nblk, h.coefficients, h.marks, h.res, h.smp⟩

theorem useRegister_parallel {n : Nat} (hn : n = 0x21 ∨ (lpc ∧ (n = 0x34 ∨ (0x40 ≤ n ∧ n ≤ 0x5F)))) :
    Parallel (SameInputs lpc c) (useRegister n) := by
  intro s s' h
  rw [useRegister_eq, useRegister_eq, h.marks n hn]
  split
  exacts [rfl, ⟨rfl, h.note _ _⟩]

theorem checkedNblk_parallel : Parallel (SameInputs lpc c) checkedNblk :=
  .andThen (useRegister_parallel (.inl rfl)) <|
  .bind (.read fun _ _ h => h.nblk) fun _ => .andThen (.require _ _) (.pure _)

theorem readShift_parallel (hl : lpc) : Parallel (SameInputs lpc c) readShift :=
  .andThen (useRegister_parallel (.inr ⟨hl, .inl rfl⟩)) (.read fun _ _ h => by rw [(h.coefficients hl).1])

theorem readQlp_parallel (hl : lpc) {j : Nat} (hj : j < 32) : Parallel (SameInputs lpc c) (readQlp j) :=
  .andThen (useRegister_parallel (.inr ⟨hl, .inr (by omega)⟩)) <|
  .read fun _ _ h => by unfold qlpOf; rw [(h.coefficients hl).2]

theorem readRes_parallel (i : Nat) : Parallel (SameInputs lpc c) (readRes i) := by
  intro s s' h
  unfold readRes
  rw [h.res]
  cases cellGet s.res i
  exacts [rfl, ⟨rfl, h⟩]

theorem readSmp_parallel {i : Nat} (hi : i < 65536) : Parallel (SameInputs lpc c) (readSmp c i) := by
  intro s s' h
  unfold readSmp
  rw [h.smp i hi]
  cases cellGet s.smp (smpAddress c i)
  exacts [rfl, ⟨rfl, h⟩]

theorem writeSmp_parallel (i : Nat) (v : Int) : Parallel (SameInputs lpc c) (writeSmp c i v) :=
  .update fun _ _ h => ⟨h.nblk, h.coefficients, h.marks, h.res, fun j hj => by
    rw [setSmp_smp, setSmp_smp, cellGet_cellSet, cellGet_cellSet, h.smp j hj]⟩

theorem weightedHistory_parallel {coefficient : Nat → Cmd Int} {i : Nat} (hi : i < 65536) :
    ∀ {count j : Nat} {acc : Int}, (∀ k, j ≤ k → k < j + count → Parallel (SameInputs lpc c) (coefficient k)) →
      Parallel (SameInputs lpc c) (weightedHistory coefficient c i count j acc)
  | 0, _, _, _ => .pure _
  | n + 1, j, _, h =>
    .bind (h j le_rfl (by omega)) fun _ => .bind (readSmp_parallel (by omega)) fun _ =>
    weightedHistory_parallel hi fun k h1 h2 => h k (by omega) (by omega)

theorem fixedPrediction_parallel (order : Nat) {i : Nat} (hi : i < 65536) :
    Parallel (SameInputs lpc c) (fixedPrediction order c i) :=
  weightedHistory_parallel hi fun _ _ _ => .pure _

theorem lpcPrediction_parallel (hl : lpc) {order : Nat} (ho : order ≤ 32) (shift : Nat) {i : Nat} (hi : i < 65536) :
    Parallel (SameInputs lpc c) (lpcPrediction order shift c i) :=
  .bind (weightedHistory_parallel hi fun _ _ _ => readQlp_parallel hl (by omega)) fun _ => .pure _

theorem reconstruct_parallel {prediction : Nat → Cmd Int} {nblk : Nat} (order w : Nat) (hn : nblk ≤ 65535)
    (hp : ∀ {i}, i < 65536 → Parallel (SameInputs lpc c) (prediction i)) :
    Parallel (SameInputs lpc c) (reconstruct prediction order nblk c w) :=
  .forRange fun i _ _ => .bind (readRes_parallel _) fun _ => .bind (hp (by omega)) fun _ =>
    .andThen (.require _ _) (writeSmp_parallel _ _)

theorem warmupCheck_parallel (w : Nat) {j : Nat} (hj : j < 65536) : Parallel (SameInputs lpc c) (warmupCheck c w j) :=
  .bind (readSmp_parallel hj) fun _ => .require _ _

theorem predictorChecks_parallel {order : Nat} (ho : order ≤ 32) (w : Nat) :
    Parallel (SameInputs lpc c) (predictorChecks order c w) :=
  .bind checkedNblk_parallel fun _ => .andThen (.require _ _) <|
  .andThen (.forRange fun _ _ _ => warmupCheck_parallel w (by omega)) (.pure _)

theorem nblk_le_of_predictorChecks {order w nblk : Nat} {s t : State} (h : predictorChecks order c w s = .ok nblk t) :
    nblk ≤ 65535 :=
  ((predictorChecks_ensures (f := machineFootprint) order c w).of_ok trivial h).1.2

theorem fixpBody_parallel {order : Nat} (ho : order ≤ 32) (w : Nat) :
    Parallel (SameInputs lpc c) (fixpBody order c w) :=
  .bind_of (predictorChecks_parallel ho w) nblk_le_of_predictorChecks fun _ hn =>
  .andThen (reconstruct_parallel _ _ hn (fixedPrediction_parallel order)) (.pure _)

theorem lpcpBody_parallel (hl : lpc) {order : Nat} (ho : order ≤ 32) (w : Nat) :
    Parallel (SameInputs lpc c) (lpcpBody order c w) :=
  .bind_of (predictorChecks_parallel ho w) nblk_le_of_predictorChecks fun _ hn =>
  .bind (readShift_parallel hl) fun _ => .andThen (.require _ _) <|
  .andThen (reconstruct_parallel _ _ hn (lpcPrediction_parallel hl ho _)) (.pure _)

end Operations

/-! What they write. -/

/-- What FIXP and LPCP may touch where NBLK is nblk: SMP[c][order..NBLK-1] (R189). -/
def predictorFootprint (order c nblk : Nat) : Footprint :=
  ⟨fun n => n = nblk, fun _ => False,
    fun x => smpAddress c order ≤ x ∧ x < smpAddress c order + (nblk - order), fun _ => False⟩

theorem undefine_predictor_outputsWithin (order c nblk : Nat) (u : State) (hu : nblkOf u = nblk) :
    OutputsWithin (predictorFootprint order c nblk) u (undefine (.predictor c order) u) :=
  ⟨.refl _, .cellErase fun _ h1 h2 => ⟨h1, hu ▸ h2⟩, .refl _, .refl _⟩

theorem predictorFootprint_smp {order c nblk i : Nat} (h1 : order ≤ i) (h2 : i < nblk) :
    (predictorFootprint order c nblk).smp (smpAddress c i) := by
  show smpAddress c order ≤ smpAddress c i ∧ smpAddress c i < smpAddress c order + (nblk - order)
  unfold smpAddress
  omega

theorem fixpBody_keeps (order c w : Nat) : Keeps SamplesOnly (fixpBody order c w) :=
  .bind samplesOnly_closed ((predictorChecks_keeps _ _ _).mono fun _ _ => NoteOnly.samples) fun _ =>
  .andThen samplesOnly_closed (fixedRecon_keeps _ _ _ _) (.pure samplesOnly_closed _)

theorem lpcpBody_keeps (order c w : Nat) : Keeps SamplesOnly (lpcpBody order c w) :=
  .bind samplesOnly_closed ((predictorChecks_keeps _ _ _).mono fun _ _ => NoteOnly.samples) fun _ =>
  .bind samplesOnly_closed (readShift_keeps.mono fun _ _ => NoteOnly.samples) fun _ =>
  .andThen samplesOnly_closed (.require samplesOnly_closed _ _) <|
  .andThen samplesOnly_closed (lpcRecon_keeps _ _ _ _ _) (.pure samplesOnly_closed _)

theorem fixpBody_stays (order c w nblk : Nat) : Stays (predictorFootprint order c nblk) (fixpBody order c w) :=
  .bind (predictorChecks_ensures _ _ _) fun _ hn =>
  .andThen (fixedRecon_stays _ _ fun _ h1 h2 => predictorFootprint_smp h1 (hn.1 ▸ h2)) fun _ => .pure trivial

theorem lpcpBody_stays (order c w nblk : Nat) : Stays (predictorFootprint order c nblk) (lpcpBody order c w) :=
  .bind (predictorChecks_ensures _ _ _) fun _ hn =>
  .bind readShift_stays fun _ _ => .andThen (.require _ rfl) fun _ =>
  .andThen (lpcRecon_stays _ _ _ fun _ h1 h2 => predictorFootprint_smp h1 (hn.1 ▸ h2)) fun _ => .pure trivial

/-! The commands. -/

/-- What a predictor leaves unchanged, and on what its code and its channel depend (R189). -/
def PredictorFrame (lpc : Prop) (order c : Nat) (run : State → Host.Outcome State Fault Refusal) : Prop :=
  ∀ s t, run s = .next t →
    t = { s with smp := t.smp, code := t.code, sticky := t.sticky, undefRead := t.undefRead, snap := none } ∧
    SameOutside s.smp t.smp (smpAddress c order) (nblkOf s - order) ∧
    ∀ s', SameInputs lpc c s s' → ∃ t', run s' = .next t' ∧ t'.code = t.code ∧
      ∀ j, j < 65536 → cellGet t'.smp (smpAddress c j) = cellGet t.smp (smpAddress c j)

theorem fatalEnd_predictor_smp {order c : Nat} {code : Code} {s u : State} (h : SnapOf s u) :
    (fatalEnd (.predictor c order) code u).smp =
      if code = .illegalCommand then u.smp else cellErase u.smp (smpAddress c order) (nblkOf u - order) := by
  rw [fatalEnd_eq h]; split <;> rfl

/-- The two ends of a predictor keep the agreement of the channel. -/
theorem fatalEnd_predictor_alike {lpc : Prop} {order c : Nat} {code : Code} {s s' u u' : State} (h : SnapOf s u)
    (h' : SnapOf s' u') (hu : SameInputs lpc c u u') {j : Nat} (hj : j < 65536) :
    cellGet (fatalEnd (.predictor c order) code u').smp (smpAddress c j) =
      cellGet (fatalEnd (.predictor c order) code u).smp (smpAddress c j) := by
  rw [fatalEnd_predictor_smp h, fatalEnd_predictor_smp h', hu.nblk]
  split
  · exact hu.smp j hj
  · rw [cellGet_cellErase, cellGet_cellErase, hu.smp j hj]

theorem runCommand_predictorFrame {lpc : Prop} {order c : Nat} {body : Cmd Code} (hk : Keeps SamplesOnly body)
    (hs : ∀ nblk, Stays (predictorFootprint order c nblk) body) (hp : Parallel (SameInputs lpc c) body) :
    PredictorFrame lpc order c (runCommand (.predictor c order) body) := by
  intro s t h
  refine ⟨?record, ?outside, fun s' agree => ?alike⟩
  case record =>
    obtain ⟨code, u, hu, rfl | rfl | rfl⟩ := runCommand_ends hk SamplesOnly.snapOf h <;> (rw [hu]; rfl)
  case outside =>
    exact (runCommand_outputsWithin (hs (nblkOf s)) rfl (undefine_predictor_outputsWithin order c _) h).smp.sameOutside
      fun _ => id
  case alike =>
    have alike := hp _ _ agree.begin
    obtain ⟨code, u, e, rfl⟩ | ⟨code, u, e, rfl⟩ := runCommand_next h
    · rw [e] at alike
      obtain ⟨u', e', hu⟩ := alike.of_ok
      exact ⟨_, runCommand_of_ok e', rfl, hu.smp⟩
    · rw [e] at alike
      obtain ⟨u', e', hu⟩ := alike.of_raised
      have hsnap := (hk.of_raised e).snapOf
      have hsnap' := (hk.of_raised e').snapOf
      obtain ⟨-, -, -, -, hcode, -⟩ := fatalEnd_restores (k := .predictor c order) (c := code) hsnap
      obtain ⟨-, -, -, -, hcode', -⟩ := fatalEnd_restores (k := .predictor c order) (c := code) hsnap'
      exact ⟨_, runCommand_of_raised e', hcode'.trans hcode.symm, fun _ => fatalEnd_predictor_alike hsnap hsnap' hu⟩

theorem exec_predictorFrame {i : Instr} {order c w : Byte} (hi : i = .fixp order c w ∨ i = .lpcp order c w) :
    PredictorFrame (i = .lpcp order c w) order.toNat c.toNat (exec i) := by
  cases hwf : i.wellFormed with
  | false =>
    intro s t h
    rw [exec_of_illFormed s hwf] at h
    cases h
    exact ⟨rfl, fun _ _ => rfl, fun s' agree => ⟨_, exec_of_illFormed s' hwf, rfl, agree.smp⟩⟩
  | true =>
    obtain rfl | rfl := hi
    · obtain ⟨ho, -⟩ := of_decide_eq_true hwf
      rw [funext (exec_fixp hwf)]
      exact runCommand_predictorFrame (fixpBody_keeps _ _ _) (fixpBody_stays _ _ _) (fixpBody_parallel (by omega) _)
    · obtain ⟨-, ho, -⟩ := of_decide_eq_true hwf
      rw [funext (exec_lpcp hwf)]
      exact runCommand_predictorFrame (lpcpBody_keeps _ _ _) (lpcpBody_stays _ _ _) (lpcpBody_parallel rfl ho _)

end Sys2Proof.Machine

open Sys2Proof Sys2Proof.Machine

/-- Settles O25: every part of FIXP and LPCP writes SMP[c][order..NBLK-1] at most, and ends alike from two states that agree
on its inputs; so do the two ends of the command. -/
theorem predictorsFrame : Obligations.PredictorsFrame := by
  intro i order c w s t hi h
  obtain ⟨record, outside, alike⟩ := exec_predictorFrame hi s t h
  exact ⟨record, outside, fun s' hn hc hm hr hx => alike s' ⟨hn, hc, hm, hr, hx⟩⟩

end

section
/-! SUPPORT. The sum LPCP accumulates (42_predictor.md R183): exact over the samples a prediction reads, and small. -/

namespace Sys2Proof.Machine

/-- The weighted sum reads no sample but the `qs.length` before sample i (R184); `weightedHistory_of_holds` asks for the whole
block before it. -/
theorem weightedHistory_of_window {coefficient : Nat → Cmd Int} {c i : Nat} {s : State} {qs xs : List Int}
    (hq : ∀ j (h : j < qs.length), coefficient j s = .ok (qs[j]'h) s) (hlen : xs.length = qs.length)
    (hi : qs.length ≤ i) (hx : holdsAt s.smp (smpAddress c (i - qs.length)) xs = true) (hfit : ∀ v ∈ xs, FitsEntry v) :
    ∀ {count j : Nat} {acc : Int}, j + count = qs.length →
      weightedHistory coefficient c i count j acc s = .ok (acc + weigh (qs.drop j) (xs.reverse.drop j)) s
  | 0, j, acc, h => by
    rw [List.drop_eq_nil_of_le (by omega : qs.length ≤ j)]; simp [weightedHistory, weigh, Cmd.pure]
  | n + 1, j, acc, h => by
    have hj : j < qs.length := by omega
    have hj' : j < xs.reverse.length := by rw [List.length_reverse]; omega
    have hread : readSmp c (i - 1 - j) s = .ok (xs.reverse[j]'hj') s := by
      have held := (holdsAt_iff _ _ _).mp hx (xs.length - 1 - j) (by omega)
      have addr : smpAddress c (i - qs.length) + (xs.length - 1 - j) = smpAddress c (i - 1 - j) := by
        unfold smpAddress; omega
      rw [addr] at held
      simp [readSmp, held, toInt_wordOfInt (hfit _ (List.getElem_mem _))]
    rw [weightedHistory, bind_of_ok (hq j hj), bind_of_ok hread,
      weightedHistory_of_window hq hlen hi hx hfit (by omega), List.drop_eq_getElem_cons hj,
      List.drop_eq_getElem_cons hj', weigh, Int.add_assoc]

/-- A weighted sum is bounded by the number of its terms and the bounds of its factors. -/
theorem abs_weigh_le {a b : Int} : ∀ {qs xs : List Int}, (∀ q ∈ qs, |q| ≤ a) → (∀ x ∈ xs, |x| ≤ b) →
    0 ≤ a * b → |weigh qs xs| ≤ qs.length * (a * b)
  | [], _, _, _, _ => by simp [weigh]
  | q :: qs, [], _, _, hab => by
    simp only [weigh, abs_zero]; exact mul_nonneg (Int.natCast_nonneg _) hab
  | q :: qs, x :: xs, hq, hx, hab => by
    obtain ⟨hq0, hqs⟩ := List.forall_mem_cons.mp hq
    obtain ⟨hx0, hxs⟩ := List.forall_mem_cons.mp hx
    have term : |q * x| ≤ a * b := by
      rw [abs_mul]; exact mul_le_mul hq0 hx0 (abs_nonneg x) ((abs_nonneg q).trans hq0)
    calc |q * x + weigh qs xs| ≤ |q * x| + |weigh qs xs| := abs_add_le _ _
      _ ≤ a * b + qs.length * (a * b) := add_le_add term (abs_weigh_le hqs hxs hab)
      _ = (qs.length + 1 : Nat) * (a * b) := by push_cast; ring

@[simp] theorem length_coefficientsOf (s : State) (order : Nat) : (coefficientsOf s order).length = order := by
  simp [coefficientsOf]

/-- LPCP reads the coefficients of a predictor whose registers hold values. -/
theorem readQlp_of_registersDefined {s : State} {order : Nat}
    (h : RegistersDefined s ((List.range order).map (0x40 + ·))) (j : Nat) (hj : j < (coefficientsOf s order).length) :
    readQlp j s = .ok ((coefficientsOf s order)[j]'hj) s := by
  have hj' : j < order := length_coefficientsOf s order ▸ hj
  rw [readQlp_of_defined ((registersDefined_iff _ _).mp h _ (List.mem_map_of_mem (List.mem_range.mpr hj')))]
  simp [coefficientsOf]

theorem abs_le_of_inRange {v : Int} {w : Nat} (h : InRange v w) : |v| ≤ 2 ^ (w - 1) := by
  unfold InRange at h; rw [abs_le]; omega

theorem abs_qlpOf_le (s : State) (j : Nat) : |qlpOf s j| ≤ 2 ^ 15 := by
  have hlo := BitVec.le_toInt (s.qlp[j]?.getD 0)
  have hhi := BitVec.toInt_lt (x := s.qlp[j]?.getD 0)
  rw [qlpOf, abs_le]; omega

end Sys2Proof.Machine

open Sys2Proof Sys2Proof.Machine

/-- Settles O26: the sum reads the window only, and its at most 32 terms are products of a 16-bit and a 33-bit value. -/
theorem lpcSumFitsAccumulator : Obligations.LpcSumFitsAccumulator := by
  intro c i order window s h32 hoi hdef hlen hh hw
  have hcoef := length_coefficientsOf s order
  have sum := weightedHistory_of_window (readQlp_of_registersDefined hdef) (c := c) (i := i) (hlen.trans hcoef.symm)
    (by omega) (by rwa [hcoef]) (fun v hv => inRange_mono (hw v hv) (by omega)) (count := order) (j := 0) (acc := 0)
    (by omega)
  have bound : |weigh (coefficientsOf s order) window.reverse| ≤ (coefficientsOf s order).length * (2 ^ 15 * 2 ^ 32) :=
    abs_weigh_le (by simp only [coefficientsOf, List.forall_mem_map]; exact fun j _ => abs_qlpOf_le s j)
      (fun x hx => abs_le_of_inRange (hw x (List.mem_reverse.mp hx))) (by norm_num)
  rw [hcoef, abs_le] at bound
  refine ⟨_, sum, by simp, ?_⟩
  simp only [List.drop_zero, zero_add]
  omega
end

section
/-! SUPPORT. Parts of a command against the fields of a code: where the fields stand the part ends well behind them, and
where the code breaks off in one of them (R150, R152, R153) the part is refused. One rule per way of building a part. -/

namespace Sys2Proof.Machine

variable {α β : Type}

/-! Codes that break off. -/

/-- The fields stand up to one that the end of the buffer cuts, or in whose place a quotient too large for 64 bits stands;
the code is what the cursor makes of it. -/
def BreaksOff (s : State) (fields : List BitField) (code : Code) : Prop :=
  ∃ before f, (∃ k, CutInside s fields before f k ∧ code = f.kind.cutCode) ∨
    (QuotientTooLarge s fields before f ∧ code = .malformedStream)

theorem fieldBits_singleton (f : BitField) : fieldBits [f] = f.bits := List.append_nil _

theorem FieldKind.cutCode_ne_illegalCommand : ∀ kind : FieldKind, kind.cutCode ≠ .illegalCommand
  | .fixed => nofun
  | .unary => nofun
  | .quotient _ => nofun

theorem BreaksOff.ne_illegalCommand {s : State} {fields : List BitField} {code : Code} (h : BreaksOff s fields code) :
    code ≠ .illegalCommand := by
  obtain ⟨before, f, ⟨k, -, rfl⟩ | ⟨-, rfl⟩⟩ := h
  · exact f.kind.cutCode_ne_illegalCommand
  · decide

/-- No field is broken off in a code without fields. -/
theorem not_breaksOff_nil (s : State) (code : Code) : ¬ BreaksOff s [] code := by
  rintro ⟨before, f, ⟨k, ⟨h, -⟩, -⟩ | ⟨⟨h, -⟩, -⟩⟩ <;> simp at h

/-- A field of two sequences, with those before it, is one of the first, or one of the second behind the whole first. -/
theorem field_of_append {fs gs before : List BitField} {f : BitField} (h : before ++ [f] <+: fs ++ gs) :
    before ++ [f] <+: fs ∨ ∃ before', before = fs ++ before' ∧ before' ++ [f] <+: gs := by
  obtain ⟨rest, whole⟩ := h
  obtain ⟨rest', e, -⟩ | ⟨start, e, rfl⟩ := List.append_eq_append_iff.mp whole
  · exact .inl ⟨rest', e.symm⟩
  · obtain rfl | ⟨before', g, rfl⟩ := List.eq_nil_or_concat' start
    · exact .inl ⟨[], by simpa using e⟩
    · rw [← List.append_assoc] at e
      obtain ⟨hbefore, rfl⟩ := List.append_singleton_inj.mp e
      exact .inr ⟨before', hbefore, rest, rfl⟩

/-- Two sequences of fields break off in the first, or in the second behind the first. -/
theorem BreaksOff.append {s : State} {fs gs : List BitField} {code : Code} (hb : Bounded s)
    (h : BreaksOff s (fs ++ gs) code) :
    BreaksOff s fs code ∨ (Stands s (fieldBits fs) ∧ BreaksOff (moveBy (fieldBits fs).length s) gs code) := by
  obtain ⟨before, f, ⟨k, ⟨hpre, hk, hs, hend⟩, hcode⟩ | ⟨⟨hpre, k, q, hkind, hq, hs⟩, hcode⟩⟩ := h
  · obtain hin | ⟨before', rfl, hin⟩ := field_of_append hpre
    · exact .inl ⟨before, f, .inl ⟨k, ⟨hin, hk, hs, hend⟩, hcode⟩⟩
    · rw [fieldBits_append, List.append_assoc] at hs hend
      obtain ⟨h1, h2⟩ := (stands_append hb).mp hs
      rw [List.length_append] at hend
      refine .inr ⟨h1, before', f, .inl ⟨k, ⟨hin, hk, h2, ?_⟩, hcode⟩⟩
      rw [moveBy_pos (h1.lt hb), moveBy_len, hend, Nat.add_assoc]
  · obtain hin | ⟨before', rfl, hin⟩ := field_of_append hpre
    · exact .inl ⟨before, f, .inr ⟨⟨hin, k, q, hkind, hq, hs⟩, hcode⟩⟩
    · rw [fieldBits_append, List.append_assoc] at hs
      obtain ⟨h1, h2⟩ := (stands_append hb).mp hs
      exact .inr ⟨h1, before', f, .inr ⟨⟨hin, k, q, hkind, hq, h2⟩, hcode⟩⟩

/-- How one field breaks off. -/
theorem BreaksOff.singleton {s : State} {f : BitField} {code : Code} (h : BreaksOff s [f] code) :
    (∃ k, k < f.bits.length ∧ Stands s (f.bits.take k) ∧ 8 * s.len.toNat = s.pos.toNat + k ∧ code = f.kind.cutCode) ∨
    (∃ k q, f.kind = .quotient k ∧ 2 ^ (64 - k) ≤ q ∧ Stands s (unaryBits s.cfg.unaryStop q) ∧
      code = .malformedStream) := by
  have only {before : List BitField} {g : BitField} (hpre : before ++ [g] <+: [f]) : before = [] ∧ g = f := by
    have hnil : before = [] := List.eq_nil_of_length_eq_zero (by simpa using hpre.length_le)
    subst hnil
    simpa using hpre
  obtain ⟨before, g, ⟨k, ⟨hpre, hk, hs, hend⟩, hcode⟩ | ⟨⟨hpre, k, q, hkind, hq, hs⟩, hcode⟩⟩ := h <;>
    obtain ⟨rfl, rfl⟩ := only hpre
  · have taken : (fieldBits [] ++ g.bits.take k).length = k := by simp; omega
    exact .inl ⟨k, hk, hs, by rwa [taken] at hend, hcode⟩
  · exact .inr ⟨k, q, hkind, hq, hs, hcode⟩

/-- A field of a known width breaks off where the buffer ends inside it (R150). -/
theorem BreaksOff.fixed {s : State} {bits : List Bool} {code : Code} (h : BreaksOff s [⟨.fixed, bits⟩] code) :
    1 ≤ bits.length ∧ 8 * s.len.toNat < s.pos.toNat + bits.length ∧ code = .outOfData := by
  obtain ⟨k, hk, -, hend, hcode⟩ | ⟨k, q, hkind, -⟩ := h.singleton
  · have hk : k < bits.length := hk
    exact ⟨by omega, by omega, hcode⟩
  · cases hkind

/-- The quotient of the Rice code of a 64-bit value is one R153 admits. -/
theorem unfold_div_lt {k : Nat} {v : Int} (hk : k ≤ 64) (hv : FitsEntry v) : unfold v / 2 ^ k < 2 ^ (64 - k) := by
  rw [Nat.div_lt_iff_lt_mul (by positivity), ← pow_add, Nat.sub_add_cancel hk]
  exact unfold_lt hv

/-! The cursor in two states. -/

/-- The cursor meets the same in both states, and both have the same record of a model fault. -/
structure SameCursor (s t : State) : Prop where
  cfg : t.cfg = s.cfg
  len : t.len = s.len
  buf : t.buf = s.buf
  pos : t.pos = s.pos
  undefRead : t.undefRead = s.undefRead

namespace SameCursor

variable {s t u : State}

theorem refl (s : State) : SameCursor s s := ⟨rfl, rfl, rfl, rfl, rfl⟩

theorem trans (h : SameCursor s t) (h' : SameCursor t u) : SameCursor s u :=
  ⟨h'.cfg.trans h.cfg, h'.len.trans h.len, h'.buf.trans h.buf, h'.pos.trans h.pos, h'.undefRead.trans h.undefRead⟩

theorem moveBy (h : SameCursor s t) (n : Nat) : SameCursor (moveBy n s) (moveBy n t) where
  cfg := h.cfg
  len := h.len
  buf := h.buf
  pos := by rw [Machine.moveBy, Machine.moveBy, h.pos]
  undefRead := h.undefRead

theorem bounded (h : SameCursor s t) (hb : Bounded s) : Bounded t := by rwa [Bounded, h.len]

theorem stands (h : SameCursor s t) {bs : List Bool} (hs : Stands s bs) : Stands t bs := by
  rwa [Stands, h.pos, h.len, h.buf]

theorem breaksOff (h : SameCursor s t) {fs : List BitField} {code : Code} (hs : BreaksOff s fs code) :
    BreaksOff t fs code := by
  simpa only [BreaksOff, CutInside, QuotientTooLarge, Stands, h.pos, h.len, h.buf, h.cfg] using hs

end SameCursor

/-! Parts that follow fields. -/

/-- Where these fields stand, m gives a and leaves the cursor behind them; where they break off, it is refused with the code
of the field. Neither records a model fault. -/
structure Follows (stop : Bool) (m : Cmd α) (a : α) (fs : List BitField) : Prop where
  reads : ∀ {s}, s.cfg.unaryStop = stop → Bounded s → Stands s (fieldBits fs) →
    ∃ t, m s = .ok a t ∧ SameCursor (moveBy (fieldBits fs).length s) t
  refuses : ∀ {s code}, s.cfg.unaryStop = stop → Bounded s → BreaksOff s fs code →
    ∃ t, m s = .raised code t ∧ t.undefRead = s.undefRead

namespace Follows

variable {stop : Bool} {m : Cmd α} {a : α} {b : β} {fs gs : List BitField}

theorem pure (a : α) : Follows stop (Cmd.pure a) a [] where
  reads _ _ _ := ⟨_, rfl, by simpa using SameCursor.refl _⟩
  refuses _ _ h := absurd h (not_breaksOff_nil _ _)

/-- An update that the cursor does not see. -/
theorem update {g : State → State} (h : ∀ s, SameCursor s (g s)) : Follows stop (Cmd.update g) () [] where
  reads _ _ _ := ⟨_, rfl, by simpa using h _⟩
  refuses _ _ h := absurd h (not_breaksOff_nil _ _)

/-- One part after another follows the fields of both, one after another. -/
theorem bind {k : α → Cmd β} (hm : Follows stop m a fs) (hk : Follows stop (k a) b gs) :
    Follows stop (m.bind k) b (fs ++ gs) where
  reads {s} hstop hb hs := by
    rw [fieldBits_append] at hs ⊢
    obtain ⟨h1, h2⟩ := (stands_append hb).mp hs
    obtain ⟨t, e, ht⟩ := hm.reads hstop hb h1
    obtain ⟨u, e', hu⟩ := hk.reads (ht.cfg ▸ hstop) (ht.bounded hb) (ht.stands h2)
    refine ⟨u, by rw [bind_of_ok e, e'], ?_⟩
    rw [List.length_append, ← moveBy_moveBy (h1.lt hb)]
    exact (ht.moveBy _).trans hu
  refuses {s code} hstop hb h := by
    obtain h | ⟨h1, h2⟩ := h.append hb
    · obtain ⟨t, e, ht⟩ := hm.refuses hstop hb h
      exact ⟨t, bind_of_raised e, ht⟩
    · obtain ⟨t, e, ht⟩ := hm.reads hstop hb h1
      obtain ⟨u, e', hu⟩ := hk.refuses (ht.cfg ▸ hstop) (ht.bounded hb) (ht.breaksOff h2)
      exact ⟨u, by rw [bind_of_ok e, e'], hu.trans ht.undefRead⟩

theorem andThen {k : Cmd β} (hm : Follows stop m a fs) (hk : Follows stop k b gs) :
    Follows stop (m.andThen k) b (fs ++ gs) :=
  bind hm hk

/-- A field of a known width, read by a part that the end of the buffer refuses (R150). -/
theorem fixed {bits : List Bool}
    (hread : ∀ {s}, Bounded s → Stands s bits → m s = .ok a (moveBy bits.length s))
    (hshort : ∀ {s : State}, 1 ≤ bits.length → 8 * s.len.toNat < s.pos.toNat + bits.length →
      m s = .raised .outOfData s) :
    Follows stop m a [⟨.fixed, bits⟩] where
  reads _ hb hs := by
    rw [fieldBits_singleton] at hs ⊢
    exact ⟨_, hread hb hs, .refl _⟩
  refuses _ _ h := by
    obtain ⟨hbits, hend, rfl⟩ := h.fixed
    exact ⟨_, hshort hbits hend, rfl⟩

theorem readBits {n v : Nat} (hv : v < 2 ^ n) : Follows stop (readBits n) v [⟨.fixed, uintBits n v⟩] :=
  fixed (fun hb hs => by rw [length_uintBits]; exact readBits_of_stands hv hb hs)
    fun _ h => readBits_of_short (by rwa [length_uintBits] at h)

theorem readSigned {n : Nat} {v : Int} (hv : if n = 0 then v = 0 else InRange v n) :
    Follows stop (readSigned n) v [⟨.fixed, sintBits n v⟩] :=
  fixed (fun hb hs => by rw [length_sintBits]; exact readSigned_field hv hb hs) fun hn h => by
    rw [length_sintBits] at hn h; exact readSigned_of_short hn h

/-- A Rice code (R153): its unary part, where no quotient too large for the parameter stands, and its remainder. -/
theorem readRice {k : Nat} {v : Int} (hk : k ≤ 64) (hv : FitsEntry v) :
    Follows stop (readRice k) v (riceFields stop k v) where
  reads hstop hb hs := by
    subst hstop
    rw [fieldBits_riceFields] at hs ⊢
    exact ⟨_, readRice_of_stands hk hv hb hs, .refl _⟩
  refuses {s code} hstop hb h := by
    subst hstop
    obtain h | ⟨hs, h⟩ := BreaksOff.append (fs := [_]) hb h
    · obtain ⟨j, hj, hs, hend, rfl⟩ | ⟨k', q, hkind, hq, hs, rfl⟩ := h.singleton
      · have noStop : (unaryBits s.cfg.unaryStop (unfold v / 2 ^ k)).take j =
            List.replicate (8 * s.len.toNat - s.pos.toNat) (!s.cfg.unaryStop) := by
          rw [length_unaryBits] at hj
          rw [unaryBits, List.take_append_of_le_length (by simp; omega), List.take_replicate]
          congr 1; omega
        exact ⟨_, readRice_of_none (by rw [← noStop]; exact hs.2), rfl⟩
      · cases hkind
        exact ⟨_, readRice_of_quotient_too_large hq hb hs, rfl⟩
    · obtain ⟨-, hend, rfl⟩ := h.fixed
      rw [fieldBits_singleton] at hs hend
      have hlt := hs.lt hb
      rw [moveBy_len, moveBy_pos hlt, length_uintBits, length_unaryBits] at hend
      exact ⟨_, readRice_of_short (unfold_div_lt hk hv) hb hs (by omega), rfl⟩

end Follows

end Sys2Proof.Machine
end

section
/-! SUPPORT. The residual section (43_residual.md) against its fields: where a legal section stands it is read, where it
breaks off or is refused at its start it raises, and what RESD makes of that (R302, R303). -/

namespace Sys2Proof.Machine

variable {stop : Bool} {pbits : Nat}

/-! Partitions. -/

/-- A loop that reads one value after another into RES. -/
theorem Follows.readInto_res {reader : Cmd Int} {fields : Int → List BitField} :
    ∀ {vs : List Int} {idx : Nat}, (∀ v ∈ vs, Follows stop reader v (fields v)) →
      Follows stop (Cmd.forRange (fun i => reader.bind fun v => writeRes i v) vs.length idx) () (vs.flatMap fields)
  | [], _, _ => .pure ()
  | v :: vs, idx, h => by
    have write : Follows stop (writeRes idx v) () [] := .update fun _ => ⟨rfl, rfl, rfl, rfl, rfl⟩
    rw [List.length_cons, forRange_succ, List.flatMap_cons]
    refine .andThen (a := ()) ?_ (readInto_res fun u hu => h u (List.mem_cons_of_mem v hu))
    rw [← List.append_nil (fields v)]
    exact .bind (h v List.mem_cons_self) write

/-- One partition: its parameter, then Rice codes, or a width and raw fields (R203). -/
theorem PartitionCode.follows {x : PartitionCode} (hp : pbits ≤ 5) (hl : x.legal pbits = true) (idx : Nat) :
    Follows stop (readPartition pbits (2 ^ pbits - 1) x.residuals.length idx) () (x.fields stop pbits) := by
  have hpos : 0 < 2 ^ pbits := by positivity
  have h32 : 2 ^ pbits ≤ 2 ^ 5 := Nat.pow_le_pow_right (by norm_num) hp
  cases x with
  | rice k rs =>
    simp only [legal, Bool.and_eq_true, decide_eq_true_eq, List.all_eq_true] at hl
    obtain ⟨hk, hrs⟩ := hl
    refine .bind (fs := [_]) (.readBits (v := k) (by omega)) ?_
    rw [if_neg (by omega)]
    exact .readInto_res fun v hv => .readRice (by omega) (hrs v hv)
  | raw w rs =>
    simp only [legal, Bool.and_eq_true, Bool.ite_eq_true_distrib, decide_eq_true_eq, List.all_eq_true] at hl
    obtain ⟨hw, hrs⟩ := hl
    refine .bind (fs := [_]) (.readBits (v := 2 ^ pbits - 1) (by omega)) ?_
    rw [if_pos rfl]
    refine .bind (fs := [_]) (.readBits (v := w) (by omega)) ?_
    rw [← List.flatMap_singleton' (rs.map _), List.flatMap_map]
    exact .readInto_res fun v hv => .readSigned (hrs v hv)

/-- The partitions from p on, of psize residuals each, the first of a section shorter by the order (R204). -/
theorem readPartitions_follows {psize order : Nat} (hp : pbits ≤ 5) :
    ∀ {parts : List PartitionCode} {p : Nat} (idx : Nat), (∀ x ∈ parts, x.legal pbits = true) →
      (∀ j (h : j < parts.length), (parts[j]'h).residuals.length = psize - (if p + j = 0 then order else 0)) →
      Follows stop (readPartitions pbits (2 ^ pbits - 1) psize order parts.length p idx) ()
        (parts.flatMap (PartitionCode.fields stop pbits))
  | [], _, _, _, _ => .pure ()
  | x :: parts, p, idx, hl, hc => by
    have hcount : psize - (if p = 0 then order else 0) = x.residuals.length := (hc 0 (by simp)).symm
    rw [List.length_cons, List.flatMap_cons, readPartitions, hcount]
    refine .andThen (x.follows hp (hl x List.mem_cons_self) idx)
      (readPartitions_follows hp _ (fun y hy => hl y (List.mem_cons_of_mem x hy)) fun j hj => ?_)
    have := hc (j + 1) (by simpa using hj)
    simpa [Nat.add_assoc, Nat.add_comm 1] using this

/-! The section. -/

/-- The residual section behind its check of NBLK (R200). -/
def sectionBehindNblk (nblk order : Nat) : Cmd Unit :=
  (readBits 2).bind fun method =>
  (Cmd.require (method < 2) .malformedStream).andThen <|
  let pbits := if method = 0 then 4 else 5
  (readBits 4).bind fun porder =>
  (Cmd.require (nblk % 2 ^ porder = 0) .malformedStream).andThen <|
  (Cmd.require (order ≤ nblk / 2 ^ porder) .malformedStream).andThen <|
  readPartitions pbits (2 ^ pbits - 1) (nblk / 2 ^ porder) order (2 ^ porder) 0 0

theorem residualSection_of_ready {order : Nat} {s : State} (hn : NblkReady s) :
    residualSection order s = sectionBehindNblk (nblkOf s) order s :=
  bind_of_ok (checkedNblk_of_ready hn)

/-- The partitions of a legal section have NBLK / 2^porder residuals, the first one less the order (R204). -/
theorem SectionCode.length_residuals_of_legal {nblk order : Nat} {x : SectionCode} (hl : x.legal nblk order = true)
    {j : Nat} (hj : j < x.parts.length) :
    (x.parts[j]'hj).residuals.length = nblk / 2 ^ x.porder - if j = 0 then order else 0 := by
  simp only [legal, Bool.and_eq_true, decide_eq_true_eq] at hl
  obtain ⟨⟨⟨⟨⟨⟨-, -⟩, hlen⟩, -⟩, -⟩, -⟩, hcounts⟩ := hl
  have count := congrArg (fun l => l[j]?) hcounts
  simp only [List.getElem?_map, List.getElem?_eq_getElem hj, Option.map_some] at count
  cases j with
  | zero => simpa using count
  | succ j =>
    rw [List.getElem?_cons_succ, List.getElem?_replicate, if_pos (by omega)] at count
    simpa using count

/-- A legal section: its fields, whole or broken off (R200 to R204). -/
theorem SectionCode.follows {nblk order : Nat} {x : SectionCode} (hl : x.legal nblk order = true) :
    Follows stop (sectionBehindNblk nblk order) () (x.fields stop) := by
  have counts := fun j (hj : j < x.parts.length) => length_residuals_of_legal hl hj
  simp only [legal, Bool.and_eq_true, decide_eq_true_eq, List.all_eq_true] at hl
  obtain ⟨⟨⟨⟨⟨⟨hm, hpo⟩, hlen⟩, hdiv⟩, hord⟩, hparts⟩, -⟩ := hl
  have hp5 : x.pbits ≤ 5 := by unfold pbits; split <;> omega
  have partitions := readPartitions_follows (stop := stop) (psize := nblk / 2 ^ x.porder) (p := 0) hp5 0 hparts
    (by simpa only [Nat.zero_add] using counts)
  rw [hlen] at partitions
  refine .bind (fs := [_]) (.readBits (v := x.method) (by omega)) ?_
  rw [require_of hm, pure_andThen]
  refine .bind (fs := [_]) (.readBits (v := x.porder) (by omega)) ?_
  rw [require_of hdiv, pure_andThen, require_of hord, pure_andThen]
  exact partitions

/-- A section refused at its start: at its method (R201), or at its partition order (R202). -/
theorem sectionBehindNblk_of_badStart {nblk order : Nat} {bad : List Bool} {s : State} (h : BadSectionStart nblk order bad)
    (hb : Bounded s) (hs : Stands s bad) :
    sectionBehindNblk nblk order s = .raised .malformedStream (moveBy bad.length s) := by
  have reserved {m : Nat} (hm : m < 2 ^ 2) (h2 : ¬ m < 2) (hs : Stands s (uintBits 2 m)) :
      sectionBehindNblk nblk order s = .raised .malformedStream (moveBy 2 s) := by
    rw [sectionBehindNblk, bind_of_ok (readBits_of_stands hm hb hs), require_of_not h2]; rfl
  obtain rfl | rfl | ⟨method, porder, hm, hpo, rfl, h⟩ := h
  · exact reserved (by norm_num) (by norm_num) hs
  · exact reserved (by norm_num) (by norm_num) hs
  · obtain ⟨h1, h2⟩ := (stands_append hb).mp hs
    have hlt := h1.lt hb
    rw [length_uintBits] at h2 hlt
    rw [sectionBehindNblk, bind_of_ok (readBits_of_stands (by omega) hb h1), require_of hm, pure_andThen,
      bind_of_ok (readBits_of_stands (by omega) (s := moveBy 2 s) hb h2), moveBy_moveBy hlt]
    rw [List.length_append, length_uintBits, length_uintBits]
    by_cases hdiv : nblk % 2 ^ porder = 0
    · rw [require_of hdiv, pure_andThen, require_of_not (by omega)]; rfl
    · rw [require_of_not hdiv]; rfl

/-! RESD. -/

/-- A section that is refused with no model fault on record leaves RES[0..NBLK-order-1] UNDEF (R302, R303). -/
theorem exec_resd_of_raised {order : Byte} {code : Code} {s u : State} (hwf : (Instr.resd order).wellFormed = true)
    (hn : NblkReady s) (hcode : code ≠ .illegalCommand)
    (h : sectionBehindNblk (nblkOf s) order.toNat (beginCommand s) = .raised code u) (hu : u.undefRead = s.undefRead) :
    ∃ t, exec (.resd order) s = .next t ∧ t = { failed code s with res := t.res } ∧
      ErasedRange s.res t.res 0 (nblkOf s - order.toNat) := by
  have refused := (residualSection_of_ready (s := beginCommand s) hn).trans h
  have keeps := (residualSection_keeps _).of_raised refused
  have run : exec (.resd order) s = .next (fatalEnd (.residual order.toNat) code u) :=
    (runCommand_operandCheck_of (of_decide_eq_true hwf) _ s).trans (runCommand_of_raised (andThen_of_raised refused))
  have outside := (resdFrame _ _ _ run).2
  rw [fatalEnd_eq keeps.snapOf, if_neg hcode] at run outside
  rw [ResidualsOnly, hu] at keeps
  have nblk : nblkOf u = nblkOf s := by rw [keeps]; rfl
  refine ⟨_, run, by rw [keeps]; rfl, fun x h1 h2 => ?_, outside⟩
  have erased : cellGet (cellErase u.res 0 (nblkOf u - order.toNat)) x = none := by
    rw [cellGet_cellErase, nblk, if_pos ⟨h1, h2⟩]
  exact erased

end Sys2Proof.Machine

open Sys2Proof Sys2Proof.Machine

/-- Settles O27: past its word check RESD is the residual section, which reads a section that stands. -/
theorem resdDecodesEncodedSection : Obligations.ResdDecodesEncodedSection := by
  intro order x s hwf hn hl hb hs
  have read := residualSection_of_stands (s := beginCommand s) hn hl hb hs
  refine ⟨_, (runCommand_operandCheck_of (of_decide_eq_true hwf) _ s).trans (runCommand_of_ok (andThen_of_ok read)),
    rfl, holdsAt_cellsSet s.res 0 x.residuals, ?_⟩
  have outside := sameOutside_cellsSet s.res 0 (x.residuals.map wordOfInt)
  rwa [List.length_map] at outside

/-- Settles O28: the section is refused at its start, or in a field that breaks off, and R303 erases what it has written. -/
theorem resdRejectsBadSections : Obligations.ResdRejectsBadSections := by
  rintro order code s hwf hn hb (⟨rfl, bad, hbad, hs⟩ | ⟨x, before, f, hl, h⟩)
  · have refused := sectionBehindNblk_of_badStart (s := beginCommand s) hbad hb hs
    exact exec_resd_of_raised hwf hn (by decide) refused rfl
  · have broken : BreaksOff s (x.fields s.cfg.unaryStop) code := by
      obtain ⟨k, hcut, hcode⟩ | hlarge := h
      exacts [⟨before, f, .inl ⟨k, hcut, hcode⟩⟩, ⟨before, f, .inr hlarge⟩]
    obtain ⟨u, refused, hu⟩ := (SectionCode.follows hl).refuses (s := beginCommand s) rfl hb broken
    exact exec_resd_of_raised hwf hn broken.ne_illegalCommand refused hu

end

section
/-! SUPPORT. The subframe header at the cursor (30_encoding.md R130, 44_subframe.md R220, R221): the byte a waiting SUBF
fetches, and SUBF up to its type code as the same parts as a header run in a waiting SUBF. -/

namespace Sys2Proof.Machine

variable {α β : Type} {s : State}

/-! The header a waiting SUBF fetches. -/

theorem headerAtCursor_of_stands {b : Byte} (hs : Stands s (uintBits 8 b.toNat)) : headerAtCursor s = some b := by
  obtain ⟨hend, hbits⟩ := hs
  have peek := peekBits_of_bitsAt hbits 0
  rw [length_uintBits] at hend peek
  rw [bitsValue_uintBits _ _ _ b.isLt, Nat.zero_mul, Nat.zero_add] at peek
  rw [headerAtCursor, if_neg (by omega), peek]
  simp

theorem fetchHeader_of_stands {o : SubframeOperands} {b : Byte} {i : Instr} (hs : Stands s (uintBits 8 b.toNat))
    (hi : decodeSubframeHeader b = .ok i) : fetchHeader o s = .run i s := by
  rw [fetchHeader, headerAtCursor_of_stands hs, Option.map_some, hi]

theorem runHeader_of_no_sub (t : Nat) (k : SubframeKind) (flag : Bool) (h : s.sub = none) :
    runHeader t k flag s = .refused .noSubframe := by
  rw [runHeader, h]

/-! The fields of a header byte. -/

/-- The bits of a header byte: its padding bit, its type code, its flag (R130). -/
theorem uintBits_headerByte : ∀ b : Byte,
    uintBits 8 b.toNat = b.getLsbD 7 :: uintBits 6 (b.extractLsb' 1 6).toNat ++ [b.getLsbD 0] := by
  decide

/-- A legal header byte has padding bit 0, and the decoder classifies its type code. -/
theorem decodeSubframeHeader_eq_ok {b : Byte} {i : Instr} (h : decodeSubframeHeader b = .ok i) :
    b.getLsbD 7 = false ∧ classifyHeader (b.extractLsb' 1 6) (b.getLsbD 0) = .ok i := by
  unfold decodeSubframeHeader at h
  split at h
  case isTrue => cases h
  case isFalse hpad => exact ⟨Bool.eq_false_iff.mpr hpad, h⟩

/-- The decoder's classification of a type code is SUBF's (R221). -/
theorem classify_of_classifyHeader {t : BitVec 6} {flag : Bool} {i : Instr} (h : classifyHeader t flag = .ok i) :
    ∃ k, classify t.toNat = some k ∧ ∀ s, exec i s = runHeader t.toNat k flag s := by
  unfold classifyHeader at h
  split at h
  case isTrue lpc =>
    cases h
    have low : (t.setWidth 5).toNat = t.toNat - 32 := by rw [BitVec.toNat_setWidth]; omega
    refine ⟨lpcKind (t.toNat - 31), ?_, fun s => ?_⟩
    · rw [classify, if_neg (by omega), if_neg (by omega), if_neg (by omega), if_pos lpc]
    · rw [exec, execSfLpc, low, Nat.add_sub_cancel' lpc, show t.toNat - 32 + 1 = t.toNat - 31 by omega]
  case isFalse =>
    split at h
    case h_1 code | h_2 code | h_3 code | h_4 code | h_5 code | h_6 code | h_7 code =>
      cases h
      rw [code]
      exact ⟨_, rfl, fun _ => rfl⟩
    case h_8 => cases h

/-! SUBF up to its type code. -/

/-- Two sequences with the same first part run alike where their second parts do. -/
theorem bind_congr_of_ok {m : Cmd α} {k k' : α → Cmd β} (h : ∀ a t, m s = .ok a t → k a t = k' a t) :
    m.bind k s = m.bind k' s := by
  cases e : m s with
  | ok a t => rw [bind_of_ok e, bind_of_ok e, h a t e]
  | raised c t => rw [bind_of_raised e, bind_of_raised e]
  | faulted f => rw [bind_of_faulted e, bind_of_faulted e]

theorem NoteOnly.stands {t : State} (h : NoteOnly s t) {bs : List Bool} (hs : Stands s bs) : Stands t bs := by
  unfold NoteOnly at h; rwa [h]

theorem NoteOnly.bounded {t : State} (h : NoteOnly s t) (hb : Bounded s) : Bounded t := by
  unfold NoteOnly at h; rwa [h]

theorem uintBits_one_toNat (b : Bool) : uintBits 1 b.toNat = [b] := by cases b <;> rfl

/-- `ReadBits(1)` consumes a bit and gives it. -/
theorem readBit_of_stands {b : Bool} (hb : Bounded s) (hs : Stands s [b]) : readBits 1 s = .ok b.toNat (moveBy 1 s) :=
  readBits_of_stands b.toNat_lt hb (by rwa [uintBits_one_toNat])

/-- A padding bit of 0 and a type code are consumed. -/
theorem readTypeCode_of_stands {t : Nat} (ht : t < 64) (hb : Bounded s) (hs : Stands s (false :: uintBits 6 t)) :
    readBits 1 s = .ok 0 (moveBy 1 s) ∧ readBits 6 (moveBy 1 s) = .ok t (moveBy 7 s) := by
  obtain ⟨hpad, hcode⟩ := (stands_append (xs := [false]) (ys := uintBits 6 t) hb).mp hs
  have moved : moveBy 6 (moveBy 1 s) = moveBy 7 s := moveBy_moveBy (hpad.lt hb)
  rw [← moved]
  exact ⟨readBit_of_stands hb hpad, readBits_of_stands ht hb hcode⟩

/-- SUBF behind its type code t (R221, R224). -/
def behindTypeCode (c bps nblk t : Nat) : Cmd Unit :=
  match classify t with
  | none => Cmd.raise .malformedStream
  | some k =>
    k.check.andThen <|
    (readBits 1).bind fun flag =>
    subframeRest c bps nblk t k.order (flag = 1) (fun ebps => k.body c ebps nblk)

/-- SUBF behind the checks it makes before it reads a bit (R220). -/
def behindChecks (c bps nblk : Nat) : Cmd Unit :=
  (readBits 1).bind fun pad =>
  (Cmd.require (pad = 0) .malformedStream).andThen <|
  (readBits 6).bind fun t => behindTypeCode c bps nblk t

theorem subframe_eq (c bps : Nat) : subframe c bps = (subframeChecks bps).bind fun nblk => behindChecks c bps nblk := rfl

theorem behindTypeCode_of_some {c bps nblk t : Nat} {k : SubframeKind} (h : classify t = some k) :
    behindTypeCode c bps nblk t = k.check.andThen ((readBits 1).bind fun flag =>
      subframeRest c bps nblk t k.order (flag = 1) (fun ebps => k.body c ebps nblk)) := by
  rw [behindTypeCode, h]

theorem behindTypeCode_of_none {c bps nblk t : Nat} (h : classify t = none) :
    behindTypeCode c bps nblk t = Cmd.raise .malformedStream := by
  rw [behindTypeCode, h]

/-- Where a padding bit of 0 and a type code stand, SUBF consumes them. -/
theorem behindChecks_of_typeCode {c bps nblk t : Nat} (ht : t < 64) (hb : Bounded s)
    (hs : Stands s (false :: uintBits 6 t)) : behindChecks c bps nblk s = behindTypeCode c bps nblk t (moveBy 7 s) := by
  obtain ⟨pad, code⟩ := readTypeCode_of_stands ht hb hs
  rw [behindChecks, bind_of_ok pad, require_of rfl, pure_andThen, bind_of_ok code]

/-- A SUBF whose header stands at the cursor is the SUBF with that header (log 1). -/
theorem subframe_eq_subframeWithHeader {c bps t : Nat} {k : SubframeKind} {flag : Bool} (ht : t < 64)
    (hk : classify t = some k) (hb : Bounded s) (hs : Stands s (false :: uintBits 6 t ++ [flag])) :
    subframe c bps s = subframeWithHeader c bps t k flag s := by
  refine bind_congr_of_ok fun nblk u hu => ?_
  have note := (subframeChecks_keeps bps).of_ok hu
  have hb' := note.bounded hb
  obtain ⟨hcode, hflag⟩ := (stands_append hb').mp (note.stands hs)
  obtain ⟨pad, code⟩ := readTypeCode_of_stands ht hb' hcode
  have known : ∀ rest : Cmd Unit, ((readBits 1).andThen ((readBits 6).andThen rest)) u = rest (moveBy 7 u) :=
    fun _ => (andThen_of_ok pad).trans (andThen_of_ok code)
  refine (behindChecks_of_typeCode ht hb' hcode).trans (Eq.trans ?_ (known _).symm)
  rw [behindTypeCode_of_some hk]
  refine bind_congr_of_ok fun _ v hv => ?_
  have note' := (classify_keeping hk).check.of_ok hv
  rw [List.length_cons, length_uintBits] at hflag
  have bit := readBit_of_stands (note'.bounded hb') (note'.stands hflag)
  rw [bind_of_ok bit, andThen_of_ok bit]
  cases flag <;> rfl

end Sys2Proof.Machine

open Sys2Proof Sys2Proof.Machine

/-- Settles O5: the byte at the cursor is what `fetch` decodes. -/
theorem stepRunsWaitingHeader : Obligations.StepRunsWaitingHeader := by
  intro s o b i hsub hs hi
  rw [step, fetch, hsub]
  dsimp only
  rw [fetchHeader_of_stands hs hi]

/-- Settles O36. -/
theorem headerWithoutSubframeIsRefused : Obligations.HeaderWithoutSubframeIsRefused := by
  intro i s hi hsub
  obtain ⟨t, k, flag, -, -, e⟩ := exec_header hi
  rw [e, runHeader_of_no_sub t k flag hsub]

/-- Settles O32: both run the parts of SUBF, SUBF reading from the buffer what the header has been decoded from. -/
theorem subfIsItsHeader : Obligations.SubfIsItsHeader := by
  intro c bps b i s hsub hb hs hi
  obtain ⟨hpad, hclass⟩ := decodeSubframeHeader_eq_ok hi
  obtain ⟨k, hk, run⟩ := classify_of_classifyHeader hclass
  rw [uintBits_headerByte, hpad] at hs
  have same := subframe_eq_subframeWithHeader (c := c.toNat) (bps := bps.toNat) (s := beginCommand s)
    (b.extractLsb' 1 6).isLt hk hb hs
  have waiting : { s with sub := none } = s := by rw [← hsub]
  rw [run, runHeader_of_sub rfl]
  dsimp only
  rw [waiting]
  refine runCommand_congr (bind_congr_of_ok fun _ t ht => ?_)
  rw [operandCheck, require_eq_ok] at ht
  obtain ⟨-, rfl⟩ := ht
  simp only [Cmd.andThen, Cmd.bind, same]

end

section
/-! SUPPORT. SUBF up to the body of its subframe (44_subframe.md R220 to R224), the kinds that a type code stands for, and
the loops that write a channel. -/

namespace Sys2Proof.Machine

variable {s : State} {c bps nblk t wasted : Nat} {k : SubframeKind}

/-! The start of a subframe. -/

/-- SUBF behind the start of its subframe (R220, R222). -/
def behindStart (c bps nblk t wasted : Nat) (k : SubframeKind) : Cmd Unit :=
  (Cmd.require (wasted < bps) .malformedStream).andThen <|
  (Cmd.require (k.order ≤ nblk) .malformedStream).andThen <|
  (Cmd.update (setSubframeHeader t k.order wasted)).andThen <|
  (k.body c (bps - wasted) nblk).andThen <|
  if 0 < wasted then shiftSamples c wasted nblk else Cmd.pure ()

theorem subframeRest_eq (c bps nblk t : Nat) (k : SubframeKind) (flag : Bool) :
    subframeRest c bps nblk t k.order flag (fun ebps => k.body c ebps nblk) =
      (readWasted flag).bind fun wasted => behindStart c bps nblk t wasted k := rfl

/-- The check SUBF makes when it has read the type code passes for these parameters (R224). -/
def SubframeKind.Passes (k : SubframeKind) (cfg : Params) : Prop := ∀ s : State, s.cfg = cfg → k.check s = .ok () s

theorem passes_of_pure {cfg : Params} (h : k.check = Cmd.pure ()) : k.Passes cfg := fun s _ => by rw [h]; rfl

theorem lpcKind_passes {cfg : Params} {order : Nat} (h : order ≤ cfg.maxLpcOrder) : (lpcKind order).Passes cfg := by
  rintro s rfl
  exact congrFun (require_of h _) s

theorem lpcKind_check_of_gt {order : Nat} (h : s.cfg.maxLpcOrder < order) :
    (lpcKind order).check s = .raised .unsupportedStream s :=
  congrFun (require_of_not h.not_ge _) s

theorem classify_fixed (h8 : 8 ≤ t) (h12 : t ≤ 12) : classify t = some (fixedKind (t - 8)) := by
  rw [classify, if_neg (by omega), if_neg (by omega), if_pos ⟨h8, h12⟩]

theorem classify_lpc (h : 32 ≤ t) : classify t = some (lpcKind (t - 31)) := by
  rw [classify, if_neg (by omega), if_neg (by omega), if_neg (by omega), if_pos h]

theorem classify_reserved (h : (2 ≤ t ∧ t ≤ 7) ∨ (13 ≤ t ∧ t ≤ 31)) : classify t = none := by
  rw [classify, if_neg (by omega), if_neg (by omega), if_neg (by omega), if_neg (by omega)]

/-- With NBLK and the depth legal, SUBF goes on to the padding bit. -/
theorem subframe_of_ready (hn : NblkReady s) (hmax : bps ≤ s.cfg.maxSubframeBps) :
    subframe c bps s = behindChecks c bps (nblkOf s) s := by
  rw [subframe_eq, subframeChecks, bind_assoc, bind_of_ok (checkedNblk_of_ready hn), bind_assoc, read_bind,
    require_of hmax]
  rfl

/-- A depth above the maximum is refused before a bit is read (R224). -/
theorem subframe_of_deep (hn : NblkReady s) (hmax : s.cfg.maxSubframeBps < bps) :
    subframe c bps s = .raised .unsupportedStream s := by
  rw [subframe_eq, subframeChecks, bind_assoc, bind_of_ok (checkedNblk_of_ready hn), bind_assoc, read_bind,
    require_of_not hmax.not_ge]
  rfl

/-- Up to the flag of a legal header (R220). -/
theorem subframe_of_header {flag : Bool} (hn : NblkReady s) (hmax : bps ≤ s.cfg.maxSubframeBps) (ht : t < 64)
    (hk : classify t = some k) (hc : k.Passes s.cfg) (hb : Bounded s)
    (hs : Stands s (false :: uintBits 6 t ++ [flag])) :
    subframe c bps s = subframeRest c bps (nblkOf s) t k.order flag (fun ebps => k.body c ebps (nblkOf s)) (moveBy 8 s) := by
  obtain ⟨hcode, hflag⟩ := (stands_append hb).mp hs
  have moved : moveBy 1 (moveBy 7 s) = moveBy 8 s := moveBy_moveBy (by have := hs.lt hb; simp at this; omega)
  rw [List.length_cons, length_uintBits] at hflag
  rw [subframe_of_ready hn hmax, behindChecks_of_typeCode ht hb hcode, behindTypeCode_of_some hk,
    andThen_of_ok (hc (moveBy 7 s) rfl), bind_of_ok (readBit_of_stands (s := moveBy 7 s) hb hflag), moved]
  cases flag <;> rfl

/-- The wasted-bits count (R131, R222). -/
theorem readWasted_of_stands (hb : Bounded s)
    (hs : Stands s (if 0 < wasted then unaryBits s.cfg.unaryStop (wasted - 1) else [])) :
    readWasted (decide (0 < wasted)) s =
      .ok wasted (moveBy (if 0 < wasted then unaryBits s.cfg.unaryStop (wasted - 1) else []).length s) := by
  by_cases h : 0 < wasted
  · rw [if_pos h] at hs ⊢
    rw [decide_eq_true h, readWasted, if_pos rfl, bind_of_ok (readUnary_of_stands hb hs), length_unaryBits,
      Nat.sub_add_cancel h]
    rfl
  · rw [if_neg h, decide_eq_false h, Nat.eq_zero_of_not_pos h, List.length_nil, moveBy_zero]
    rfl

/-- Up to the body of a subframe whose start stands at the cursor (R220 to R224). -/
theorem subframe_of_start (hn : NblkReady s) (hmax : bps ≤ s.cfg.maxSubframeBps) (ht : t < 64)
    (hk : classify t = some k) (hc : k.Passes s.cfg) (hb : Bounded s)
    (hs : Stands s (subframeStart s.cfg.unaryStop t wasted)) :
    subframe c bps s =
      behindStart c bps (nblkOf s) t wasted k (moveBy (subframeStart s.cfg.unaryStop t wasted).length s) := by
  obtain ⟨hheader, hwasted⟩ := (stands_append hb).mp hs
  have hlt := hheader.lt hb
  have read := readWasted_of_stands (s := moveBy _ s) hb hwasted
  rw [subframeStart, List.length_append, ← moveBy_moveBy hlt]
  have hlen : (false :: uintBits 6 t ++ [decide (0 < wasted)]).length = 8 := by simp
  rw [hlen] at read ⊢
  rw [subframe_of_header hn hmax ht hk hc hb hheader, subframeRest_eq, bind_of_ok read]
  rfl

/-! Loops that write a channel. -/

/-- A loop each turn of which writes the next entry, reading at most entries it has not reached. -/
theorem forRange_writes_smp {body : Nat → Cmd Unit} :
    ∀ {vs : List Word} {i : Nat} {s : State},
      (∀ j (h : j < vs.length) (t : State), t = { s with smp := t.smp } →
        (∀ x, smpAddress c (i + j) ≤ x → cellGet t.smp x = cellGet s.smp x) →
        body (i + j) t = .ok () (setSmp c (i + j) (vs[j]'h) t)) →
      Cmd.forRange body vs.length i s = .ok () { s with smp := cellsSet s.smp (smpAddress c i) vs }
  | [], _, _, _ => rfl
  | v :: vs, i, s, h => by
    have first : body i s = .ok () (setSmp c i v s) := h 0 (by simp) s rfl fun _ _ => rfl
    rw [List.length_cons, forRange_succ, andThen_of_ok first, forRange_writes_smp (vs := vs) fun j hj t ht hsame => ?_]
    · rw [smpAddress_succ]; rfl
    · have turn := h (j + 1) (by simpa using hj) t (by rw [ht]; rfl) fun x hx => ?_
      · rwa [Nat.add_right_comm, Nat.add_assoc i j 1]
      · rw [hsame x (by rwa [Nat.add_right_comm, Nat.add_assoc i j 1]), setSmp_smp, cellGet_cellSet, if_neg]
        unfold smpAddress at *; omega

theorem readSmp_of_get {i : Nat} {v : Int} (hv : FitsEntry v) (h : cellGet s.smp (smpAddress c i) = some (wordOfInt v)) :
    readSmp c i s = .ok v s := by
  simp [readSmp, h, toInt_wordOfInt hv]

/-- The wasted-bits shift of a channel (R222). -/
theorem shiftSamples_of_holds {vs : List Int} (hh : holdsAt s.smp (smpAddress c 0) vs = true)
    (hf : ∀ v ∈ vs, FitsEntry v) :
    shiftSamples c wasted vs.length s = .ok () { s with
      smp := cellsSet s.smp (smpAddress c 0) ((vs.map fun v => v * 2 ^ wasted).map wordOfInt) } := by
  have loop := forRange_writes_smp (c := c) (s := s) (i := 0)
    (body := fun i => (readSmp c i).bind fun v => writeSmp c i (v * 2 ^ wasted))
    (vs := (vs.map fun v => v * 2 ^ wasted).map wordOfInt) fun j hj t _ hsame => ?_
  · rw [List.length_map, List.length_map] at loop
    exact loop
  · rw [List.length_map, List.length_map] at hj
    have held := (holdsAt_iff _ _ _).mp hh j hj
    rw [← smpAddress_eq_add] at held
    simp only [Nat.zero_add] at hsame ⊢
    rw [← hsame _ le_rfl] at held
    rw [bind_of_ok (readSmp_of_get (hf _ (List.getElem_mem hj)) held), List.getElem_map, List.getElem_map]
    rfl

/-- The constant's loop (R228). -/
theorem forRange_writeSmp (v : Int) (n : Nat) (s : State) :
    Cmd.forRange (fun i => writeSmp c i v) n 0 s = .ok () { s with
      smp := cellsSet s.smp (smpAddress c 0) ((List.replicate n v).map wordOfInt) } := by
  have loop := forRange_writes_smp (c := c) (s := s) (i := 0) (body := fun i => writeSmp c i v)
    (vs := (List.replicate n v).map wordOfInt) fun j hj t _ _ => by simp [writeSmp]
  simpa only [List.length_map, List.length_replicate] using loop

end Sys2Proof.Machine
end

section
/-! SUPPORT. The bodies of a subframe (44_subframe.md R226 to R230) where their bits stand: Constant and Verbatim write the
channel they read, Fixed and LPC read a head, a residual section, and reconstruct. -/

namespace Sys2Proof.Machine

variable {s t : State} {c ebps nblk maxLpc : Nat}

/-! Legal sections. -/

/-- The residuals of a legal partition are 64-bit values (R205, R206). -/
theorem PartitionCode.fitsEntry_of_legal {pbits : Nat} {x : PartitionCode} (hl : x.legal pbits = true) :
    ∀ v ∈ x.residuals, FitsEntry v := by
  cases x with
  | rice k rs =>
    simp only [legal, Bool.and_eq_true, decide_eq_true_eq, List.all_eq_true] at hl
    exact hl.2
  | raw w rs =>
    simp only [legal, Bool.and_eq_true, Bool.ite_eq_true_distrib, decide_eq_true_eq, List.all_eq_true] at hl
    obtain ⟨hw, hrs⟩ := hl
    intro v hv
    have fits := hrs v hv
    split at fits
    · subst fits; unfold FitsEntry InRange; norm_num
    · exact inRange_fitsEntry (by omega) fits

theorem SectionCode.fitsEntry_of_legal {order : Nat} {x : SectionCode} (hl : x.legal nblk order = true) :
    ∀ v ∈ x.residuals, FitsEntry v := by
  simp only [legal, Bool.and_eq_true, decide_eq_true_eq, List.all_eq_true] at hl
  obtain ⟨⟨-, hparts⟩, -⟩ := hl
  intro v hv
  obtain ⟨part, hpart, hv⟩ := List.mem_flatMap.mp hv
  exact PartitionCode.fitsEntry_of_legal (hparts part hpart) v hv

/-- A legal section has a residual for every sample behind the warm-up samples (R204). -/
theorem SectionCode.length_residuals {order : Nat} {x : SectionCode} (hl : x.legal nblk order = true) :
    order + x.residuals.length = nblk := by
  simp only [legal, Bool.and_eq_true, decide_eq_true_eq] at hl
  obtain ⟨⟨⟨⟨-, hdiv⟩, hord⟩, -⟩, hcounts⟩ := hl
  have hpos : 0 < 2 ^ x.porder := by positivity
  obtain ⟨parts, hparts⟩ := Nat.exists_eq_succ_of_ne_zero hpos.ne'
  have whole := Nat.div_add_mod nblk (2 ^ x.porder)
  rw [residuals, List.length_flatMap, hcounts, List.sum_cons, List.sum_replicate, smul_eq_mul]
  rw [hdiv, hparts, Nat.succ_mul] at whole
  rw [hparts] at hord ⊢
  rw [Nat.succ_sub_one]
  omega

/-! A residual section and the reconstruction behind it. -/

/-- A Fixed or LPC body as a predicted block (R226, R227). -/
structure PredictedCode where
  warmup : List Int
  coefficients : List Int
  shift : Nat
  residual : SectionCode

/-- Its warm-up samples fit, and its section is one of the block. -/
structure PredictedCode.Legal (p : PredictedCode) (nblk ebps : Nat) : Prop where
  length_le : p.warmup.length ≤ nblk
  warmup : ∀ v ∈ p.warmup, InRange v ebps
  section_legal : p.residual.legal nblk p.warmup.length = true

/-- The residual section and the reconstruction with which a Fixed or LPC body ends. -/
def predictedTail (prediction : Nat → Cmd Int) (order nblk c w : Nat) : Cmd Unit :=
  (residualSection order).andThen (reconstruct prediction order nblk c w)

/-- The state behind a residual section that has been read from s. -/
def afterSection (x : SectionCode) (s : State) : State :=
  { moveBy (x.bits s.cfg.unaryStop).length s with res := cellsSet s.res 0 (x.residuals.map wordOfInt) }

section Tail

variable {p : PredictedCode} {prediction : Nat → Cmd Int}

theorem residualsReady_afterSection (hl : p.Legal (nblkOf s) ebps) :
    ResidualsReady p.warmup.length p.residual.residuals (afterSection p.residual s) :=
  ⟨SectionCode.length_residuals hl.section_legal, holdsAt_cellsSet s.res 0 _, SectionCode.fitsEntry_of_legal hl.section_legal⟩

theorem warmupReady_afterSection (x : SectionCode) (he : ebps ≤ 33) (hn : NblkReady s) (hl : p.Legal (nblkOf s) ebps)
    (hh : holdsAt s.smp (smpAddress c 0) p.warmup = true) :
    WarmupReady p.warmup.length c p.warmup (afterSection x s) :=
  .of_inRange he hn rfl hl.length_le hh hl.warmup

/-- A section that stands is read, and the block reconstructed from it. -/
theorem predictedTail_of_stands (hn : NblkReady s) (hl : p.Legal (nblkOf s) ebps) (hb : Bounded s)
    (hs : Stands s (p.residual.bits s.cfg.unaryStop)) :
    predictedTail prediction p.warmup.length (nblkOf s) c ebps s =
      reconstruct prediction p.warmup.length (nblkOf s) c ebps (afterSection p.residual s) :=
  andThen_of_ok (residualSection_of_stands hn hl.section_legal hb hs)

theorem predictedTail_of_fits (he : ebps ≤ 33) (hn : NblkReady s) (hl : p.Legal (nblkOf s) ebps) (hb : Bounded s)
    (hs : Stands s (p.residual.bits s.cfg.unaryStop)) (hh : holdsAt s.smp (smpAddress c 0) p.warmup = true)
    (hp : Predicts prediction p.coefficients p.shift p.warmup.length c (afterSection p.residual s))
    (hin : ∀ v ∈ rebuild p.coefficients p.shift p.warmup p.residual.residuals, InRange v ebps) :
    predictedTail prediction p.warmup.length (nblkOf s) c ebps s = .ok () { afterSection p.residual s with
      smp := cellsSet s.smp (smpAddress c p.warmup.length)
        ((follow p.coefficients p.shift p.warmup.reverse p.residual.residuals).map wordOfInt) } :=
  (predictedTail_of_stands hn hl hb hs).trans <|
    reconstruct_of_fits he hp (warmupReady_afterSection _ he hn hl hh) (residualsReady_afterSection hl) hin

/-- A sample outside the effective depth is refused (R186). -/
theorem predictedTail_of_outside (he : ebps ≤ 33) (hn : NblkReady s) (hl : p.Legal (nblkOf s) ebps) (hb : Bounded s)
    (hs : Stands s (p.residual.bits s.cfg.unaryStop)) (hh : holdsAt s.smp (smpAddress c 0) p.warmup = true)
    (hp : Predicts prediction p.coefficients p.shift p.warmup.length c (afterSection p.residual s))
    (hout : ∃ v ∈ rebuild p.coefficients p.shift p.warmup p.residual.residuals, ¬ InRange v ebps) :
    ∃ u, predictedTail prediction p.warmup.length (nblkOf s) c ebps s = .raised .malformedStream u ∧
      u.undefRead = s.undefRead := by
  obtain ⟨vs, -, refused⟩ := reconstruct_of_outside he hp (warmupReady_afterSection p.residual he hn hl hh) hl.warmup
    (residualsReady_afterSection hl) hout
  exact ⟨_, (predictedTail_of_stands hn hl hb hs).trans refused, rfl⟩

end Tail

/-! The LPC fields (R227). -/

/-- One coefficient of an LPC body. -/
def readCoefficient (prec j : Nat) : Cmd Unit :=
  (readSigned prec).bind fun v => Cmd.update (setQlp j (BitVec.ofInt 16 v))

/-- What stands between the warm-up samples and the residual section of an LPC body; the value is the shift. -/
def lpcFields (order : Nat) : Cmd Nat :=
  (readBits 4).bind fun p =>
  (Cmd.require (p ≠ 15) .malformedStream).andThen <|
  (Cmd.update (setPrec (p + 1))).andThen <|
  (readSigned 5).bind fun sh =>
  (Cmd.update (setShift (BitVec.ofInt 5 sh))).andThen <|
  (Cmd.require (0 ≤ sh) .malformedStream).andThen <|
  (Cmd.forRange (readCoefficient (p + 1)) order 0).andThen (Cmd.pure sh.toNat)

theorem lpcBody_eq (order c ebps nblk : Nat) : lpcBody order c ebps nblk =
    (readSamples c ebps order).andThen ((lpcFields order).bind fun shift =>
      predictedTail (lpcPrediction order shift c) order nblk c ebps) := by
  simp only [lpcBody, lpcFields, predictedTail, Cmd.andThen, bind_assoc, pure_bind]
  rfl

theorem qlpOf_setQlp {j : Nat} (hj : j < 32) (v : BitVec 16) (s : State) (i : Nat) :
    qlpOf (setQlp j v s) i = if i = j then v.toInt else qlpOf s i := by
  rw [qlpOf, setQlp_qlp, Vector.getElem?_setIfInBounds]
  by_cases h : j = i
  · rw [if_pos h, if_pos hj, if_pos h.symm]; rfl
  · rw [if_neg h, if_neg (Ne.symm h)]; rfl

theorem toInt_ofInt_of_inRange {v : Int} {w n : Nat} (hn : 1 ≤ n) (hw : w ≤ n) (h : InRange v w) :
    (BitVec.ofInt n v).toInt = v := by
  have wide : InRange v n := inRange_mono h hw
  unfold InRange at wide
  exact BitVec.toInt_ofInt_eq_self hn wide.1 (by omega)

/-- QLP[j..] has been written with these coefficients. -/
structure CoefficientsWritten (cs : List Int) (j : Nat) (s t : State) : Prop where
  values : ∀ i (h : i < cs.length), qlpOf t (j + i) = cs[i]'h
  others : ∀ i, i < j ∨ j + cs.length ≤ i → qlpOf t i = qlpOf s i
  undef : ∀ n, t.undef.getLsbD n = (s.undef.getLsbD n && !decide (0x40 + j ≤ n ∧ n < 0x40 + j + cs.length))

theorem readCoefficients_of_stands {prec : Nat} (h1 : 1 ≤ prec) (h16 : prec ≤ 16) : ∀ {cs : List Int} {j : Nat} {s : State},
    j + cs.length ≤ 32 → (∀ v ∈ cs, InRange v prec) → Bounded s → Stands s (cs.flatMap (sintBits prec)) →
    ∃ t, Cmd.forRange (readCoefficient prec) cs.length j s = .ok () t ∧
      t = { moveBy (cs.flatMap (sintBits prec)).length s with qlp := t.qlp, undef := t.undef } ∧
      CoefficientsWritten cs j s t
  | [], j, s, _, _, _, _ => ⟨s, rfl, by simp, ⟨by simp, fun _ _ => rfl, fun n => by simp; omega⟩⟩
  | v :: cs, j, s, hj, hv, hb, hs => by
    rw [List.length_cons] at hj
    obtain ⟨hv, hvs⟩ := List.forall_mem_cons.mp hv
    rw [List.flatMap_cons] at hs
    obtain ⟨hfirst, hrest⟩ := (stands_append hb).mp hs
    have hlt := hfirst.lt hb
    rw [length_sintBits] at hrest hlt
    set u := setQlp j (BitVec.ofInt 16 v) (moveBy prec s) with hu
    have first : readCoefficient prec j s = .ok () u := bind_of_ok (readSigned_of_stands h1 hv hb hfirst)
    obtain ⟨t, rest, only, ⟨values, others, undef⟩⟩ := readCoefficients_of_stands h1 h16 (j := j + 1) (s := u) (by omega)
      hvs hb hrest
    have coefficient := qlpOf_setQlp (j := j) (by omega) (BitVec.ofInt 16 v) (moveBy prec s)
    refine ⟨t, by rw [List.length_cons, forRange_succ, andThen_of_ok first, rest], ?_, ⟨fun i hi => ?_, fun i hi => ?_,
      fun n => ?_⟩⟩
    · rw [List.flatMap_cons, List.length_append, length_sintBits, ← moveBy_moveBy hlt, only]
      rfl
    · cases i with
      | zero =>
        rw [others _ (by omega), hu, coefficient, if_pos (Nat.add_zero j), toInt_ofInt_of_inRange (by norm_num) h16 hv]; rfl
      | succ i =>
        have := values i (by simpa using hi)
        rwa [Nat.add_right_comm, Nat.add_assoc] at this
    · rw [List.length_cons] at hi
      rw [others i (by omega), hu, coefficient, if_neg (by omega)]
      rfl
    · rw [undef, hu, setQlp_undef, getLsbD_clearMark, moveBy_undef, List.length_cons, Bool.and_assoc, ← Bool.not_or]
      congr 2
      rw [Bool.eq_iff_iff]
      simp only [Bool.or_eq_true, decide_eq_true_iff]
      omega

/-- What the LPC fields leave in the SF and QLP registers (R227, R232). -/
structure LpcRegisters (prec shift : Nat) (cs : List Int) (s t : State) : Prop where
  header : t.sf.type = s.sf.type ∧ t.sf.order = s.sf.order ∧ t.sf.wasted = s.sf.wasted
  prec : t.sf.prec.toNat = prec
  shift : t.sf.shift.toInt = shift
  coefficients : coefficientsOf t cs.length = cs
  others : ∀ j, cs.length ≤ j → qlpOf t j = qlpOf s j
  undef : ∀ n, t.undef.getLsbD n =
    (s.undef.getLsbD n && !(decide (0x33 ≤ n ∧ n ≤ 0x34) || decide (0x40 ≤ n ∧ n < 0x40 + cs.length)))

theorem inRange_five {shift : Nat} (h : shift ≤ 15) : InRange (shift : Int) 5 := by unfold InRange; omega

theorem lpcFields_of_stands {prec shift : Nat} {cs : List Int} (hprec : 1 ≤ prec ∧ prec ≤ 15) (hshift : shift ≤ 15)
    (hlen : cs.length ≤ 32) (hcs : ∀ v ∈ cs, InRange v prec) (hb : Bounded s)
    (hs : Stands s (uintBits 4 (prec - 1) ++ sintBits 5 shift ++ cs.flatMap (sintBits prec))) :
    ∃ t, lpcFields cs.length s = .ok shift t ∧
      t = { moveBy (uintBits 4 (prec - 1) ++ sintBits 5 shift ++ cs.flatMap (sintBits prec)).length s with
        sf := t.sf, qlp := t.qlp, undef := t.undef } ∧
      LpcRegisters prec shift cs s t := by
  obtain ⟨hps, hrest⟩ := (stands_append hb).mp hs
  obtain ⟨hp, hsh⟩ := (stands_append hb).mp hps
  have hltp := hp.lt hb
  have hltps := hps.lt hb
  rw [List.length_append] at hrest hltps
  simp only [length_uintBits, length_sintBits] at hsh hrest hltp hltps
  rw [← moveBy_moveBy hltp] at hrest
  set u := setShift (BitVec.ofInt 5 shift) (moveBy 5 (setPrec prec (moveBy 4 s))) with hu
  obtain ⟨t, loop, only, ⟨values, others, undef⟩⟩ := readCoefficients_of_stands (s := u) (j := 0) hprec.1 (by omega)
    (by omega) hcs hb hrest
  have readPrec := readBits_of_stands (v := prec - 1) (n := 4) (by omega) hb hp
  have readShift := readSigned_of_stands (s := setPrec prec (moveBy 4 s)) (by norm_num) (inRange_five hshift) hb hsh
  have notReserved : prec - 1 ≠ 15 := by omega
  have nonneg : (0 : Int) ≤ shift := Int.natCast_nonneg shift
  refine ⟨t, ?_, ?_, ?_⟩
  · rw [lpcFields, bind_of_ok readPrec, require_of notReserved, pure_andThen, update_andThen, Nat.sub_add_cancel hprec.1,
      bind_of_ok readShift, update_andThen, require_of nonneg, pure_andThen, ← hu, andThen_of_ok loop, Int.toNat_natCast]
    rfl
  · rw [List.length_append, List.length_append, length_uintBits, length_sintBits, ← moveBy_moveBy hltps,
      ← moveBy_moveBy hltp, only]
    rfl
  · have sf : t.sf = u.sf := by rw [only]; rfl
    refine ⟨by rw [sf]; exact ⟨rfl, rfl, rfl⟩, ?_, ?_, ?_, fun j hj => ?_, fun n => ?_⟩
    · rw [sf]
      show (BitVec.ofNat 5 prec).toNat = prec
      rw [BitVec.toNat_ofNat]
      omega
    · rw [sf]
      exact toInt_ofInt_of_inRange (by norm_num) le_rfl (inRange_five hshift)
    · refine List.ext_getElem (by simp) fun i h1 h2 => ?_
      have := values i h2
      simpa [coefficientsOf] using this
    · exact others j (by omega)
    · rw [undef, hu, setShift_undef, getLsbD_clearMark, moveBy_undef, setPrec_undef, getLsbD_clearMark, moveBy_undef,
        Bool.and_assoc, Bool.and_assoc, ← Bool.not_or, ← Bool.not_or]
      congr 2
      rw [Bool.eq_iff_iff]
      simp only [Bool.or_eq_true, decide_eq_true_iff]
      omega

end Sys2Proof.Machine
end

section
/-! SUPPORT. A subframe as SUBF reads it (44_subframe.md R220 to R232): the kind of each body, what a body that stands leaves
behind, and the whole subframe. -/

namespace Sys2Proof.Machine

variable {s t : State} {c bps ebps nblk : Nat} {x : BodyCode} {p : PredictedCode}

/-! The kind of a body. -/

/-- The kind of subframe that has this body (R221). -/
def BodyCode.kind : BodyCode → SubframeKind
  | .constant _ => constantKind
  | .verbatim _ => verbatimKind
  | .fixed warm _ => fixedKind warm.length
  | .lpc warm _ _ _ _ => lpcKind warm.length

/-- The predicted block of a Fixed or LPC body. -/
def BodyCode.predicted : BodyCode → Option PredictedCode
  | .constant _ => none
  | .verbatim _ => none
  | .fixed warm sec => some ⟨warm, fixedCoefficients warm.length, 0, sec⟩
  | .lpc warm _ shift cs sec => some ⟨warm, cs, shift, sec⟩

/-- The prediction with which a Fixed or LPC body is reconstructed into channel c. -/
def BodyCode.prediction (c : Nat) : BodyCode → Nat → Cmd Int
  | .constant _ => fun _ => Cmd.pure 0
  | .verbatim _ => fun _ => Cmd.pure 0
  | .fixed warm _ => fixedPrediction warm.length c
  | .lpc warm _ shift _ _ => lpcPrediction warm.length shift c

theorem BodyCode.kind_order (x : BodyCode) : x.kind.order = x.order := by cases x <;> rfl

theorem BodyCode.order_le_typeCode (x : BodyCode) : x.order ≤ x.typeCode := by
  cases x <;> simp [order, typeCode]

/-- The fields of a legal LPC body (R227). -/
structure LpcLegal (maxLpc nblk ebps : Nat) (warm : List Int) (prec shift : Nat) (cs : List Int) (sec : SectionCode) :
    Prop where
  one_le : 1 ≤ warm.length
  le_32 : warm.length ≤ 32
  le_max : warm.length ≤ maxLpc
  le_nblk : warm.length ≤ nblk
  warmup : ∀ v ∈ warm, InRange v ebps
  prec_range : 1 ≤ prec ∧ prec ≤ 15
  shift_le : shift ≤ 15
  length_eq : cs.length = warm.length
  coefficients : ∀ v ∈ cs, InRange v prec
  section_legal : sec.legal nblk warm.length = true

theorem allFit_iff {w : Nat} {vs : List Int} : allFit w vs = true ↔ ∀ v ∈ vs, InRange v w := by
  simp only [allFit, List.all_eq_true, decide_eq_true_eq]

theorem lpcLegal_of_fieldsLegal {maxLpc prec shift : Nat} {warm cs : List Int} {sec : SectionCode}
    (h : (BodyCode.lpc warm prec shift cs sec).fieldsLegal maxLpc nblk ebps = true) :
    LpcLegal maxLpc nblk ebps warm prec shift cs sec := by
  simp only [BodyCode.fieldsLegal, Bool.and_eq_true, decide_eq_true_eq, allFit_iff] at h
  obtain ⟨⟨⟨⟨⟨⟨⟨h1, h32, hmax, hnblk⟩, hwarm⟩, hprec⟩, hshift⟩, hlen⟩, hcs⟩, hsec⟩ := h
  exact ⟨h1, h32, hmax, hnblk, hwarm, hprec, hshift, hlen, hcs, hsec⟩

theorem fixedLegal_of_fieldsLegal {maxLpc : Nat} {warm : List Int} {sec : SectionCode}
    (h : (BodyCode.fixed warm sec).fieldsLegal maxLpc nblk ebps = true) :
    warm.length ≤ 4 ∧ warm.length ≤ nblk ∧ (∀ v ∈ warm, InRange v ebps) ∧ sec.legal nblk warm.length = true := by
  simp only [BodyCode.fieldsLegal, Bool.and_eq_true, decide_eq_true_eq, allFit_iff] at h
  obtain ⟨⟨⟨h4, hnblk⟩, hwarm⟩, hsec⟩ := h
  exact ⟨h4, hnblk, hwarm, hsec⟩

/-- The type code of a legal body is not reserved, and stands for its kind, whose check passes (R221, R224). -/
theorem BodyCode.classify_typeCode {cfg : Params} (hl : x.fieldsLegal cfg.maxLpcOrder nblk ebps = true) :
    x.typeCode < 64 ∧ classify x.typeCode = some x.kind ∧ x.kind.Passes cfg := by
  cases x with
  | constant v => exact ⟨(by norm_num : 0 < 64), rfl, passes_of_pure rfl⟩
  | verbatim xs => exact ⟨(by norm_num : 1 < 64), rfl, passes_of_pure rfl⟩
  | fixed warm sec =>
    obtain ⟨h4, -⟩ := fixedLegal_of_fieldsLegal hl
    refine ⟨?_, ?_, passes_of_pure rfl⟩ <;> simp only [typeCode, kind]
    · omega
    · rw [classify_fixed (by omega) (by omega), Nat.add_sub_cancel_left]
  | lpc warm prec shift cs sec =>
    have legal := lpcLegal_of_fieldsLegal hl
    have h1 := legal.one_le
    have h32 := legal.le_32
    refine ⟨?_, ?_, lpcKind_passes legal.le_max⟩ <;> simp only [typeCode, kind]
    · omega
    · rw [classify_lpc (by omega), Nat.add_sub_cancel_left]

theorem BodyCode.order_le {maxLpc : Nat} (hl : x.fieldsLegal maxLpc nblk ebps = true) : x.order ≤ nblk := by
  cases x with
  | constant v => exact Nat.zero_le _
  | verbatim xs => exact Nat.zero_le _
  | fixed warm sec => exact (fixedLegal_of_fieldsLegal hl).2.1
  | lpc warm prec shift cs sec => exact (lpcLegal_of_fieldsLegal hl).le_nblk

/-! The predicted block of a body. -/

theorem BodyCode.predicted_legal {maxLpc : Nat} (hp : x.predicted = some p) (hl : x.fieldsLegal maxLpc nblk ebps = true) :
    p.Legal nblk ebps := by
  cases x with
  | constant v => cases hp
  | verbatim xs => cases hp
  | fixed warm sec =>
    cases hp
    obtain ⟨-, hnblk, hwarm, hsec⟩ := fixedLegal_of_fieldsLegal hl
    exact ⟨hnblk, hwarm, hsec⟩
  | lpc warm prec shift cs sec =>
    cases hp
    have legal := lpcLegal_of_fieldsLegal hl
    exact ⟨legal.le_nblk, legal.warmup, legal.section_legal⟩

/-- A body with bits before a residual section is a predicted block behind them. -/
theorem BodyCode.exists_predicted {start : List Bool} (h : x.beforeSection ebps = some start) :
    ∃ p, x.predicted = some p := by
  cases x with
  | constant v => cases h
  | verbatim xs => cases h
  | fixed warm sec => exact ⟨_, rfl⟩
  | lpc warm prec shift cs sec => exact ⟨_, rfl⟩

/-- What the body says of itself, said of its predicted block. -/
structure PredictedCode.Of (p : PredictedCode) (x : BodyCode) (nblk ebps : Nat) (stop : Bool) (start : List Bool) :
    Prop where
  before : x.beforeSection ebps = some start
  bits : x.bits stop ebps = start ++ p.residual.bits stop
  order : x.order = p.warmup.length
  samples : x.samples nblk = rebuild p.coefficients p.shift p.warmup p.residual.residuals
  residuals : x.residuals = p.residual.residuals

theorem BodyCode.predicted_of (hp : x.predicted = some p) (nblk ebps : Nat) (stop : Bool) :
    ∃ start, p.Of x nblk ebps stop start := by
  cases x with
  | constant v => cases hp
  | verbatim xs => cases hp
  | fixed warm sec => cases hp; exact ⟨_, rfl, rfl, rfl, rfl, rfl⟩
  | lpc warm prec shift cs sec => cases hp; exact ⟨_, rfl, rfl, rfl, rfl, rfl⟩

/-- A legal body gives every sample of the block. -/
theorem BodyCode.length_samples {maxLpc : Nat} (hl : x.fieldsLegal maxLpc nblk ebps = true) :
    (x.samples nblk).length = nblk := by
  cases hp : x.predicted with
  | some p =>
    obtain ⟨start, hof⟩ := predicted_of hp nblk ebps false
    rw [hof.samples, length_rebuild, SectionCode.length_residuals (predicted_legal hp hl).section_legal]
  | none =>
    cases x with
    | constant v => exact List.length_replicate
    | verbatim xs =>
      simp only [fieldsLegal, Bool.and_eq_true, decide_eq_true_eq] at hl
      exact hl.1
    | fixed warm sec => cases hp
    | lpc warm prec shift cs sec => cases hp

/-! The head of a Fixed or LPC body. -/

theorem qlpOf_congr {u : State} (h : u.qlp = t.qlp) (j : Nat) : qlpOf u j = qlpOf t j := by rw [qlpOf, h]; rfl

theorem coefficientsOf_congr {u : State} (h : u.qlp = t.qlp) (order : Nat) :
    coefficientsOf u order = coefficientsOf t order :=
  List.map_congr_left fun j _ => qlpOf_congr h j

/-- With the LPC fields read, the prediction has their coefficients, whatever the other registers hold. -/
theorem LpcRegisters.predicts {prec shift : Nat} {cs : List Int} {u : State} (h : LpcRegisters prec shift cs s t) (c : Nat)
    (hq : u.qlp = t.qlp) (hu : u.undef = t.undef) : Predicts (lpcPrediction cs.length shift c) cs shift cs.length c u := by
  have defined : RegistersDefined u ((List.range cs.length).map (0x40 + ·)) := by
    rw [registersDefined_iff]
    intro n hn
    obtain ⟨j, hj, rfl⟩ := List.mem_map.mp hn
    have hlt := List.mem_range.mp hj
    rw [hu, h.undef]
    simp [hlt]
  have predicts := lpcPrediction_predicts shift c defined
  rwa [(coefficientsOf_congr hq _).trans h.coefficients] at predicts

/-- What a body leaves in the SF and QLP registers (R227, R232). -/
def BodyRegisters (x : BodyCode) (s t : State) : Prop :=
  match x with
  | .lpc _ prec shift cs _ => LpcRegisters prec shift cs s t
  | .constant _ | .verbatim _ | .fixed _ _ => t.sf = s.sf ∧ t.qlp = s.qlp ∧ t.undef = s.undef

theorem BodyRegisters.congr {u : State} (h : BodyRegisters x s t) (hsf : u.sf = t.sf) (hq : u.qlp = t.qlp)
    (hu : u.undef = t.undef) : BodyRegisters x s u := by
  cases x with
  | constant _ | verbatim _ | fixed _ _ =>
    obtain ⟨h1, h2, h3⟩ := h
    exact ⟨hsf.trans h1, hq.trans h2, hu.trans h3⟩
  | lpc warm prec shift cs sec =>
    obtain ⟨header, hprec, hshift, coefficients, others, undef⟩ := h
    exact ⟨hsf ▸ header, hsf ▸ hprec, hsf ▸ hshift, (coefficientsOf_congr hq _).trans coefficients,
      fun j hj => (qlpOf_congr hq j).trans (others j hj), hu ▸ undef⟩

theorem BodyRegisters.header (h : BodyRegisters x s t) :
    t.sf.type = s.sf.type ∧ t.sf.order = s.sf.order ∧ t.sf.wasted = s.sf.wasted := by
  cases x with
  | constant _ | verbatim _ | fixed _ _ => rw [h.1]; exact ⟨rfl, rfl, rfl⟩
  | lpc warm prec shift cs sec => exact LpcRegisters.header h

/-- The head of the body x has been read from s, ending in t: the warm-up samples are in SMP[c], and the prediction that
follows has its coefficients. -/
structure HeadRead (x : BodyCode) (p : PredictedCode) (c : Nat) (start : List Bool) (s t : State) : Prop where
  only : t = { moveBy start.length s with
    sf := t.sf, qlp := t.qlp, undef := t.undef, smp := cellsSet s.smp (smpAddress c 0) (p.warmup.map wordOfInt) }
  nblk_marked : t.undef.getLsbD 0x21 = s.undef.getLsbD 0x21
  registers : BodyRegisters x s t
  predicts : ∀ u : State, u.qlp = t.qlp → u.undef = t.undef →
    Predicts (x.prediction c) p.coefficients p.shift p.warmup.length c u

theorem BodyCode.body_of_head {maxLpc : Nat} {start : List Bool} (hp : x.predicted = some p) (he : 1 ≤ ebps)
    (hl : x.fieldsLegal maxLpc nblk ebps = true) (hb : Bounded s) (hstart : x.beforeSection ebps = some start)
    (hs : Stands s start) :
    ∃ t, x.kind.body c ebps nblk s = predictedTail (x.prediction c) p.warmup.length nblk c ebps t ∧
      HeadRead x p c start s t := by
  cases x with
  | constant v => cases hp
  | verbatim xs => cases hp
  | fixed warm sec =>
    cases hp
    cases hstart
    obtain ⟨h4, -, hwarm, -⟩ := fixedLegal_of_fieldsLegal hl
    exact ⟨_, andThen_of_ok (readSamples_of_stands he hwarm hb hs), rfl, rfl, ⟨rfl, rfl, rfl⟩,
      fun u _ _ => fixedPrediction_predicts h4 c u⟩
  | lpc warm prec shift cs sec =>
    cases hp
    cases hstart
    have legal := lpcLegal_of_fieldsLegal hl
    have hlen := legal.length_eq
    have h32 := legal.le_32
    rw [List.append_assoc, List.append_assoc] at hs
    obtain ⟨hwarm, hfields⟩ := (stands_append hb).mp hs
    have hlt := hwarm.lt hb
    have samples := readSamples_of_stands (c := c) he legal.warmup hb hwarm
    set u : State := { moveBy (warm.flatMap (sintBits ebps)).length s with
      smp := cellsSet s.smp (smpAddress c 0) (warm.map wordOfInt) } with hu
    rw [← List.append_assoc] at hfields
    obtain ⟨t, fields, only, registers⟩ := lpcFields_of_stands (s := u) legal.prec_range legal.shift_le (by omega)
      legal.coefficients hb hfields
    rw [hlen] at fields
    refine ⟨t, ?_, ?_, ?_, ?_, fun v hq hv => ?_⟩
    · show lpcBody warm.length c ebps nblk s = _
      rw [lpcBody_eq, andThen_of_ok samples, bind_of_ok fields]
      rfl
    · rw [List.append_assoc, List.append_assoc, List.length_append, ← moveBy_moveBy hlt, only, ← List.append_assoc]
      rfl
    · rw [registers.undef]
      simp [hu]
    · obtain ⟨header, hprec, hshift, coefficients, others, undef⟩ := registers
      exact ⟨header, hprec, hshift, coefficients, others, undef⟩
    · have predicts := registers.predicts c hq hv
      rw [hlen] at predicts
      exact predicts

/-! A body. -/

/-- The body x has been decoded into channel c from s, ending in t (R226 to R230). -/
structure BodyDone (x : BodyCode) (c ebps : Nat) (s t : State) : Prop where
  only : t = { moveBy (x.bits s.cfg.unaryStop ebps).length s with
    sf := t.sf, qlp := t.qlp, undef := t.undef, res := t.res, smp := t.smp }
  registers : BodyRegisters x s t
  res : holdsAt t.res 0 x.residuals = true
  resOutside : SameOutside s.res t.res 0 x.residuals.length
  smp : holdsAt t.smp (smpAddress c 0) (x.samples (nblkOf s)) = true
  smpOutside : SameOutside s.smp t.smp (smpAddress c 0) (nblkOf s)

theorem sameOutside_cellsSet_map (m : Entries) (a : Nat) (vs : List Int) :
    SameOutside m (cellsSet m a (vs.map wordOfInt)) a vs.length := by
  have outside := sameOutside_cellsSet m a (vs.map wordOfInt)
  rwa [List.length_map] at outside

/-- A body without a residual section: it has only written its samples. -/
theorem BodyDone.of_samples {u : State} (hres : x.residuals = []) (hreg : BodyRegisters x s s)
    (hlen : (x.samples (nblkOf s)).length = nblkOf s)
    (hu : u = { moveBy (x.bits s.cfg.unaryStop ebps).length s with
      smp := cellsSet s.smp (smpAddress c 0) ((x.samples (nblkOf s)).map wordOfInt) }) : BodyDone x c ebps s u := by
  have outside := sameOutside_cellsSet_map s.smp (smpAddress c 0) (x.samples (nblkOf s))
  rw [hlen] at outside
  subst hu
  exact ⟨rfl, hreg.congr rfl rfl rfl, by rw [hres]; rfl, fun _ _ => rfl, holdsAt_cellsSet _ _ _, outside⟩

section Head

variable {start : List Bool}

theorem HeadRead.nblkOf_eq (head : HeadRead x p c start s t) : nblkOf t = nblkOf s := by rw [head.only]; rfl

theorem HeadRead.cfg (head : HeadRead x p c start s t) : t.cfg = s.cfg := by rw [head.only]; rfl

theorem HeadRead.undefRead (head : HeadRead x p c start s t) : t.undefRead = s.undefRead := by rw [head.only]; rfl

theorem HeadRead.nblkReady (head : HeadRead x p c start s t) (hn : NblkReady s) : NblkReady t :=
  ⟨head.nblk_marked.trans hn.1, by rw [head.nblkOf_eq]; exact hn.2⟩

theorem HeadRead.bounded (head : HeadRead x p c start s t) (hb : Bounded s) : Bounded t := by rw [head.only]; exact hb

/-- What stands behind the head is what the cursor meets next. -/
theorem HeadRead.stands (head : HeadRead x p c start s t) (hb : Bounded s) {bits : List Bool}
    (hs : Stands s (start ++ bits)) : Stands t bits := by
  rw [head.only]; exact ((stands_append hb).mp hs).2

theorem HeadRead.holds (head : HeadRead x p c start s t) : holdsAt t.smp (smpAddress c 0) p.warmup = true := by
  rw [head.only]; exact holdsAt_cellsSet _ _ _

end Head

/-- A predicted body behind its head. -/
theorem HeadRead.bodyDone {start : List Bool} (head : HeadRead x p c start s t)
    (hof : p.Of x (nblkOf s) ebps s.cfg.unaryStop start) (hl : p.Legal (nblkOf s) ebps) (he : ebps ≤ 33)
    (hn : NblkReady s) (hb : Bounded s) (hs : Stands s (x.bits s.cfg.unaryStop ebps))
    (hlen : (x.samples (nblkOf s)).length = nblkOf s) (hin : ∀ v ∈ x.samples (nblkOf s), InRange v ebps) :
    ∃ u, predictedTail (x.prediction c) p.warmup.length (nblkOf s) c ebps t = .ok () u ∧ BodyDone x c ebps s u := by
  obtain ⟨-, bits, -, samples, residuals⟩ := hof
  rw [bits] at hs
  have hlt := ((stands_append hb).mp hs).1.lt hb
  have nblk := head.nblkOf_eq
  have stands : Stands t (p.residual.bits t.cfg.unaryStop) := by rw [head.cfg]; exact head.stands hb hs
  have tail := predictedTail_of_fits (s := t) he (head.nblkReady hn) (by rwa [nblk]) (head.bounded hb) stands head.holds
    (head.predicts _ rfl rfl) (by rwa [← samples])
  rw [nblk] at tail
  have smp : t.smp = cellsSet s.smp (smpAddress c 0) (p.warmup.map wordOfInt) := by rw [head.only]
  have res : t.res = s.res := by rw [head.only]; rfl
  have written : cellsSet t.smp (smpAddress c p.warmup.length)
      ((follow p.coefficients p.shift p.warmup.reverse p.residual.residuals).map wordOfInt) =
      cellsSet s.smp (smpAddress c 0) ((x.samples (nblkOf s)).map wordOfInt) := by
    rw [samples, rebuild, List.map_append, cellsSet_append, List.length_map, ← smpAddress_eq_add, smp]
  rw [written] at tail
  refine ⟨_, tail, ?_, head.registers.congr rfl rfl rfl, ?_, ?_, holdsAt_cellsSet _ _ _, ?_⟩
  · rw [bits, List.length_append, ← moveBy_moveBy hlt, afterSection, head.cfg, head.only]
    rfl
  · rw [residuals]; exact holdsAt_cellsSet _ _ _
  · rw [residuals, ← res]; exact sameOutside_cellsSet_map _ _ _
  · have outside := sameOutside_cellsSet_map s.smp (smpAddress c 0) (x.samples (nblkOf s))
    rwa [hlen] at outside

/-- A legal body that stands is decoded (R226 to R230). -/
theorem BodyCode.body_of_stands {maxLpc : Nat} (h1 : 1 ≤ ebps) (he : ebps ≤ 33) (hn : NblkReady s)
    (hl : x.legal maxLpc (nblkOf s) ebps = true) (hb : Bounded s) (hs : Stands s (x.bits s.cfg.unaryStop ebps)) :
    ∃ t, x.kind.body c ebps (nblkOf s) s = .ok () t ∧ BodyDone x c ebps s t := by
  rw [legal, Bool.and_eq_true, allFit_iff] at hl
  obtain ⟨hfields, hin⟩ := hl
  have hlen := length_samples hfields
  cases hp : x.predicted with
  | some p =>
    obtain ⟨start, hof⟩ := predicted_of hp (nblkOf s) ebps s.cfg.unaryStop
    obtain ⟨hstart, -⟩ := (stands_append hb).mp (hof.bits ▸ hs)
    obtain ⟨t, e, head⟩ := body_of_head (c := c) hp h1 hfields hb hof.before hstart
    rw [e]
    exact head.bodyDone hof (predicted_legal hp hfields) he hn hb hs hlen hin
  | none =>
    cases x with
    | constant v =>
      have fits : InRange v ebps := of_decide_eq_true hfields
      refine ⟨_, ?_, .of_samples rfl ⟨rfl, rfl, rfl⟩ hlen rfl⟩
      show constantBody c ebps (nblkOf s) s = _
      rw [constantBody, bind_of_ok (readSigned_of_stands h1 fits hb hs), forRange_writeSmp, bits, length_sintBits]
      rfl
    | verbatim xs =>
      simp only [fieldsLegal, Bool.and_eq_true, decide_eq_true_eq, allFit_iff] at hfields
      obtain ⟨hxs, hfit⟩ := hfields
      refine ⟨_, ?_, .of_samples rfl ⟨rfl, rfl, rfl⟩ hlen rfl⟩
      have read := readSamples_of_stands (c := c) h1 hfit hb hs
      rw [hxs] at read
      exact read
    | fixed warm sec => cases hp
    | lpc warm prec shift cs sec => cases hp

end Sys2Proof.Machine
end

section
/-! SUPPORT. A whole subframe (44_subframe.md R220, R222, R232): its start, its body, and the wasted-bits shift. -/

namespace Sys2Proof.Machine

variable {s t : State} {c bps nblk : Nat}

/-- The shift of a channel that holds vs has been done from s, ending in t (R222). -/
structure Shifted (wasted c : Nat) (vs : List Int) (s t : State) : Prop where
  only : t = { s with smp := t.smp }
  holds : holdsAt t.smp (smpAddress c 0) (vs.map fun v => v * 2 ^ wasted) = true
  outside : SameOutside s.smp t.smp (smpAddress c 0) vs.length

theorem shift_of_holds {vs : List Int} (wasted : Nat) (hh : holdsAt s.smp (smpAddress c 0) vs = true)
    (hf : ∀ v ∈ vs, FitsEntry v) :
    ∃ t, (if 0 < wasted then shiftSamples c wasted vs.length else Cmd.pure ()) s = .ok () t ∧ Shifted wasted c vs s t := by
  split
  · have outside := sameOutside_cellsSet_map s.smp (smpAddress c 0) (vs.map fun v => v * 2 ^ wasted)
    rw [List.length_map] at outside
    exact ⟨_, shiftSamples_of_holds hh hf, rfl, holdsAt_cellsSet _ _ _, outside⟩
  · next h =>
    obtain rfl : wasted = 0 := by omega
    exact ⟨s, rfl, rfl, by simpa using hh, fun _ _ => rfl⟩

theorem SameOutside.trans {m n o : Entries} {a count : Nat} (h : SameOutside m n a count) (h' : SameOutside n o a count) :
    SameOutside m o a count := fun x hx => (h' x hx).trans (h x hx)

theorem getLsbD_undef_setSubframeHeader (code order wasted n : Nat) :
    (setSubframeHeader code order wasted s).undef.getLsbD n = (s.undef.getLsbD n && !decide (0x30 ≤ n ∧ n ≤ 0x32)) := by
  have range : (0x30 ≤ n ∧ n < 0x30 + 3) ↔ (0x30 ≤ n ∧ n ≤ 0x32) := by omega
  rw [setSubframeHeader_undef, getLsbD_clearRange (by omega), decide_eq_decide.mpr range]

theorem NblkReady.setSubframeHeader (hn : NblkReady s) (code order wasted : Nat) :
    NblkReady (setSubframeHeader code order wasted s) :=
  ⟨by rw [getLsbD_undef_setSubframeHeader, hn.1, Bool.false_and], hn.2⟩

/-- The three SF registers that SUBF writes before the body, which no body writes (R232). -/
theorem BodyRegisters.subframeHeader {x : BodyCode} {wasted : Nat} (ht : x.typeCode < 64) (hw : wasted < 64)
    (h : BodyRegisters x (setSubframeHeader x.typeCode x.order wasted s) t) :
    t.sf.type.toNat = x.typeCode ∧ t.sf.order.toNat = x.order ∧ t.sf.wasted.toNat = wasted := by
  obtain ⟨h1, h2, h3⟩ := h.header
  have ho := x.order_le_typeCode.trans_lt ht
  rw [h1, h2, h3]
  exact ⟨Nat.mod_eq_of_lt ht, Nat.mod_eq_of_lt ho, Nat.mod_eq_of_lt hw⟩

/-- The state behind the start of the subframe x at s, the SF registers of R232 written. -/
def beforeBody (x : SubframeCode) (s : State) : State :=
  setSubframeHeader x.body.typeCode x.body.order x.wasted
    (moveBy (subframeStart s.cfg.unaryStop x.body.typeCode x.wasted).length s)

theorem NblkReady.beforeBody (hn : NblkReady s) (x : SubframeCode) : NblkReady (beforeBody x s) :=
  NblkReady.setSubframeHeader (s := moveBy _ s) hn _ _ _

/-- Where the start of a subframe with legal fields stands, SUBF goes on to its body. -/
theorem subframe_of_body {x : SubframeCode} (hn : NblkReady s) (hmax : bps ≤ s.cfg.maxSubframeBps)
    (hwasted : x.wasted < bps) (hl : x.body.fieldsLegal s.cfg.maxLpcOrder (nblkOf s) (bps - x.wasted) = true)
    (hb : Bounded s) (hs : Stands s (subframeStart s.cfg.unaryStop x.body.typeCode x.wasted)) :
    subframe c bps s = (x.body.kind.body c (bps - x.wasted) (nblkOf s)).andThen
      (if 0 < x.wasted then shiftSamples c x.wasted (nblkOf s) else Cmd.pure ()) (beforeBody x s) := by
  obtain ⟨ht, hk, hc⟩ := BodyCode.classify_typeCode hl
  have order := (BodyCode.kind_order x.body).trans_le (BodyCode.order_le hl)
  rw [subframe_of_start hn hmax ht hk hc hb hs, behindStart, require_of hwasted, pure_andThen, require_of order,
    pure_andThen, update_andThen, BodyCode.kind_order]
  rfl

/-- A subframe whose start, body and shift have been run from s has been decoded. -/
theorem afterSubframe_of_parts {x : SubframeCode} {u v : State} (hw : x.wasted < 64) (ht : x.body.typeCode < 64)
    (hlen : (x.body.samples (nblkOf s)).length = nblkOf s) (hb : Bounded s) (hs : Stands s (x.bits s.cfg.unaryStop bps))
    (hbody : BodyDone x.body c (bps - x.wasted) (beforeBody x (beginCommand s)) u)
    (hshift : Shifted x.wasted c (x.body.samples (nblkOf s)) u v) :
    AfterSubframe x c bps (nblkOf s) s (endCommand .ok v) := by
  obtain ⟨hstart, -⟩ := (stands_append hb).mp hs
  have moved := moveBy_moveBy (s := beginCommand s) (b := (x.body.bits s.cfg.unaryStop (bps - x.wasted)).length) (hstart.lt hb)
  obtain ⟨wasted, body⟩ := x
  dsimp only [beforeBody] at *
  obtain ⟨only, registers, res, resOutside, -, smpOutside⟩ := hbody
  obtain ⟨vonly, holds, voutside⟩ := hshift
  rw [hlen] at voutside
  have vres : v.res = u.res := by rw [vonly]
  have registers' := registers.congr (u := v) (by rw [vonly]) (by rw [vonly]) (by rw [vonly])
  obtain ⟨type, order, wasted'⟩ := registers'.subframeHeader ht hw
  refine ⟨?_, type, order, wasted', ?_, by rw [endCommand_res, vres]; exact res, by rw [endCommand_res, vres]; exact resOutside,
    holds, smpOutside.trans voutside⟩
  · have ended := congrArg (fun w : State => { w with
      sf := v.sf, qlp := v.qlp, undef := v.undef, res := v.res, smp := v.smp, code := .ok, snap := none }) moved
    rw [SubframeCode.bits, List.length_append]
    refine Eq.trans ?_ ended
    rw [vonly, only]
    rfl
  · cases body with
    | constant _ | verbatim _ | fixed _ _ =>
      obtain ⟨hsf, hq, hu⟩ := registers'
      refine ⟨?_, ?_, hq, fun n => ?_⟩
      · rw [endCommand_sf, hsf]; rfl
      · rw [endCommand_sf, hsf]; rfl
      · rw [endCommand_undef, hu, getLsbD_undef_setSubframeHeader]; rfl
    | lpc warm prec shift cs sec =>
      obtain ⟨-, hprec, hshift, coefficients, others, undef⟩ := registers'
      refine ⟨hprec, hshift, coefficients, fun j hj _ => others j hj, fun n => ?_⟩
      have range : (0x30 ≤ n ∧ n ≤ 0x34) ↔ (0x30 ≤ n ∧ n ≤ 0x32) ∨ (0x33 ≤ n ∧ n ≤ 0x34) := by omega
      rw [endCommand_undef, undef, getLsbD_undef_setSubframeHeader, Bool.and_assoc, ← Bool.not_or,
        decide_eq_decide.mpr range, Bool.decide_or, Bool.or_assoc]
      rfl

/-- Every sample of the body is an entry's value. -/
theorem fitsEntry_of_legal {maxLpc ebps : Nat} {x : BodyCode} (he : ebps ≤ 33) (hl : x.legal maxLpc nblk ebps = true) :
    ∀ v ∈ x.samples nblk, FitsEntry v := by
  rw [BodyCode.legal, Bool.and_eq_true, allFit_iff] at hl
  exact fun v hv => inRange_fitsEntry he (hl.2 v hv)

/-- Where a legal subframe stands, SUBF behind its checks decodes it. -/
theorem subframe_of_stands {x : SubframeCode} (hn : NblkReady s) (hbps : bps ≤ 33) (hmax : bps ≤ s.cfg.maxSubframeBps)
    (hl : x.legal s.cfg.maxLpcOrder (nblkOf s) bps = true) (hb : Bounded s) (hs : Stands s (x.bits s.cfg.unaryStop bps)) :
    ∃ v, subframe c bps (beginCommand s) = .ok () v ∧ AfterSubframe x c bps (nblkOf s) s (endCommand .ok v) := by
  rw [SubframeCode.legal, Bool.and_eq_true, decide_eq_true_eq] at hl
  obtain ⟨hwasted, hlegal⟩ := hl
  have hfields : x.body.fieldsLegal s.cfg.maxLpcOrder (nblkOf s) (bps - x.wasted) = true := by
    rw [BodyCode.legal, Bool.and_eq_true] at hlegal
    exact hlegal.1
  have hlen := BodyCode.length_samples hfields
  obtain ⟨ht, -⟩ := BodyCode.classify_typeCode hfields
  obtain ⟨hstart, hbody⟩ := (stands_append hb).mp hs
  have started := subframe_of_body (c := c) (s := beginCommand s) hn hmax hwasted hfields hb hstart
  have ready := NblkReady.beforeBody (s := beginCommand s) hn x
  have nblk : nblkOf (beforeBody x (beginCommand s)) = nblkOf s := rfl
  obtain ⟨v, ev, body⟩ := BodyCode.body_of_stands (c := c) (by omega) (by omega) ready hlegal hb hbody
  obtain ⟨w, ew, shifted⟩ := shift_of_holds x.wasted body.smp (fitsEntry_of_legal (by omega) hlegal)
  rw [nblk, hlen] at ew
  exact ⟨w, (started.trans (andThen_of_ok ev)).trans ew, afterSubframe_of_parts (by omega) ht hlen hb hs body shifted⟩

/-- The header byte of a legal subframe (R130). -/
theorem subframeStart_header {t : Nat} (ht : t < 64) (wasted : Nat) (stop : Bool) :
    ∃ b : Byte, uintBits 8 b.toNat <+: subframeStart stop t wasted ∧
      decode (.subframeHeader b) = classifyHeader (BitVec.ofNat 6 t) (decide (0 < wasted)) := by
  have bits : ∀ (code : BitVec 6) (flag : Bool), uintBits 8 (0#1 ++ code ++ BitVec.ofBool flag : BitVec (1 + 6 + 1)).toNat =
      false :: uintBits 6 code.toNat ++ [flag] := by decide
  refine ⟨0#1 ++ BitVec.ofNat 6 t ++ BitVec.ofBool (decide (0 < wasted)), ?_, decode_packSubframeHeader _ _⟩
  rw [bits, BitVec.toNat_ofNat, Nat.mod_eq_of_lt ht]
  exact List.prefix_append _ _

end Sys2Proof.Machine

open Sys2Proof Sys2Proof.Machine

/-- Settles O31: the start of the subframe, its body and the shift, one after another. -/
theorem subfDecodesEncodedSubframe : Obligations.SubfDecodesEncodedSubframe := by
  intro c bps x s hwf hn hmax hl hb hs
  have operands := of_decide_eq_true hwf
  obtain ⟨v, e, after⟩ := subframe_of_stands (c := c.toNat) hn operands.2.2 hmax hl hb hs
  exact ⟨_, (runCommand_operandCheck_of operands _ s).trans (runCommand_of_ok (andThen_of_ok e)), after⟩

/-- Settles O30 by O31 and O32: the header byte of the subframe stands at the cursor. -/
theorem headerDecodesEncodedSubframe : Obligations.HeaderDecodesEncodedSubframe := by
  intro i x o s hsub hwf hn hmax hl hb hs hi
  have hl' := hl
  rw [SubframeCode.legal, Bool.and_eq_true, BodyCode.legal, Bool.and_eq_true] at hl'
  obtain ⟨ht, -⟩ := BodyCode.classify_typeCode hl'.2.1
  obtain ⟨b, ⟨rest, hbits⟩, hdecode⟩ := subframeStart_header ht x.wasted s.cfg.unaryStop
  rw [SubframeCode.bits, ← hbits, List.append_assoc] at hs
  obtain ⟨header, -⟩ := (stands_append hb).mp hs
  rw [← List.append_assoc, hbits] at hs
  obtain ⟨t, run, after⟩ := subfDecodesEncodedSubframe o.channel o.bps x { s with sub := none } hwf hn hmax hl hb hs
  have waiting : { s with sub := some { channel := o.channel, bps := o.bps } } = s := by rw [← hsub]
  have same := subfIsItsHeader o.channel o.bps b i { s with sub := none } rfl hb header (hdecode.trans hi)
  dsimp only at same
  rw [run, waiting] at same
  exact ⟨t, same.symm, after⟩

end

section
/-! SUPPORT. SUBF's refusals (44_subframe.md R220 to R227, R303): what a refusal leaves, and the checks of the header and of
the LPC fields, each behind the fields that stand before it. -/

namespace Sys2Proof.Machine

variable {α β : Type} {s t : State} {c bps ebps nblk : Nat} {code : Code}

/-! What a refusal leaves. -/

/-- m raises the code from s, having recorded no model fault. -/
def Refused (m : Cmd α) (code : Code) (s : State) : Prop := ∃ u, m s = .raised code u ∧ u.undefRead = s.undefRead

theorem Refused.of_raised {m : Cmd α} (h : m s = .raised code s) : Refused m code s := ⟨s, h, rfl⟩

theorem Refused.bind {m : Cmd α} {k : α → Cmd β} (h : Refused m code s) : Refused (m.bind k) code s := by
  obtain ⟨u, e, hu⟩ := h
  exact ⟨u, bind_of_raised e, hu⟩

theorem Refused.andThen {m : Cmd α} {k : Cmd β} (h : Refused m code s) : Refused (m.andThen k) code s := h.bind

/-- A part that goes on as m from t is refused as m is. -/
theorem Refused.of_eq {m m' : Cmd α} (h : Refused m code t) (e : m' s = m t) (hu : t.undefRead = s.undefRead) :
    Refused m' code s := by
  obtain ⟨u, e', hu'⟩ := h
  exact ⟨u, e.trans e', hu'.trans hu⟩

theorem refused_require {p : Prop} [Decidable p] (h : ¬ p) (k : Cmd α) : Refused ((Cmd.require p code).andThen k) code s :=
  .of_raised (by rw [require_of_not h]; rfl)

theorem getLsbD_subframeMarks (u : BitVec 128) (n : Nat) :
    (u ||| markRange 0x30 5 ||| markRange 0x40 32).getLsbD n =
      (u.getLsbD n || decide (0x30 ≤ n ∧ n ≤ 0x34) || decide (0x40 ≤ n ∧ n ≤ 0x5F)) := by
  have sf : (0x30 ≤ n ∧ n < 0x30 + 5) ↔ (0x30 ≤ n ∧ n ≤ 0x34) := by omega
  have qlp : (0x40 ≤ n ∧ n < 0x40 + 32) ↔ (0x40 ≤ n ∧ n ≤ 0x5F) := by omega
  rw [BitVec.getLsbD_or, BitVec.getLsbD_or, getLsbD_markRange (by omega), getLsbD_markRange (by omega),
    decide_eq_decide.mpr sf, decide_eq_decide.mpr qlp]

/-- Marks that differ from u at SF and QLP registers only, all of which are then set. -/
theorem subframeMarks_of_within {u v w : BitVec 128} (hw : w = v ||| markRange 0x30 5 ||| markRange 0x40 32)
    (hwithin : ∀ n, ¬ (0x30 ≤ n ∧ n ≤ 0x34) → ¬ (0x40 ≤ n ∧ n ≤ 0x5F) → w.getLsbD n = u.getLsbD n) (n : Nat) :
    w.getLsbD n = (u.getLsbD n || decide (0x30 ≤ n ∧ n ≤ 0x34) || decide (0x40 ≤ n ∧ n ≤ 0x5F)) := by
  by_cases hsf : 0x30 ≤ n ∧ n ≤ 0x34
  · rw [hw, getLsbD_subframeMarks]; simp [hsf]
  · by_cases hqlp : 0x40 ≤ n ∧ n ≤ 0x5F
    · rw [hw, getLsbD_subframeMarks]; simp [hqlp]
    · rw [hwithin n hsf hqlp]; simp [hsf, hqlp]

/-- A refused SUBF leaves its outputs UNDEF and the rest as it was (R302, R303). -/
theorem exec_subf_of_refused {c bps : Byte} (hwf : (Instr.subf c bps).wellFormed = true) (hcode : code ≠ .illegalCommand)
    (h : Refused (subframe c.toNat bps.toNat) code (beginCommand s)) :
    ∃ t, exec (.subf c bps) s = .next t ∧ SubfFailed code c.toNat s t := by
  obtain ⟨u, refused, hu⟩ := h
  have keeps := (subframe_keeps _ _).of_raised refused
  have run : exec (.subf c bps) s = .next (fatalEnd (.subframe c.toNat) code u) :=
    (runCommand_operandCheck_of (of_decide_eq_true hwf) _ s).trans (runCommand_of_raised (andThen_of_raised refused))
  obtain ⟨-, resOutside, smpOutside, marks⟩ := subframesFrame _ c.toNat _ _ (.inl ⟨bps, c, rfl, rfl⟩) run
  rw [fatalEnd_eq keeps.snapOf, if_neg hcode] at run resOutside smpOutside marks
  rw [SubframeOnly, hu] at keeps
  have nblk : nblkOf u = nblkOf s := by rw [keeps]; rfl
  have erased {m : Entries} {a x : Nat} (h1 : a ≤ x) (h2 : x < a + nblkOf s) : cellGet (cellErase m a (nblkOf u)) x = none := by
    rw [cellGet_cellErase, nblk, if_pos ⟨h1, h2⟩]
  exact ⟨_, run, by rw [keeps]; rfl, ⟨fun x h1 h2 => erased (m := u.res) h1 h2, resOutside⟩,
    ⟨fun x h1 h2 => erased (m := u.smp) h1 h2, smpOutside⟩,
    subframeMarks_of_within (v := u.undef) rfl fun n h1 h2 => (marks n h1 h2).1,
    subframeMarks_of_within (v := u.spoiled) rfl fun n h1 h2 => (marks n h1 h2).2⟩

/-! The header (R220, R221, R224). -/

section Start

variable {wasted : Nat} {k : SubframeKind} (hn : NblkReady s) (hmax : bps ≤ s.cfg.maxSubframeBps) (hb : Bounded s)

include hn hmax hb

theorem refused_of_padding (hs : Stands s [true]) : Refused (subframe c bps) .malformedStream s := by
  refine Refused.of_eq (t := moveBy 1 s) ?_ ((subframe_of_ready hn hmax).trans (bind_of_ok (readBit_of_stands hb hs))) rfl
  exact refused_require (by decide) _

theorem refused_of_reserved {t : Nat} (ht : (2 ≤ t ∧ t ≤ 7) ∨ (13 ≤ t ∧ t ≤ 31)) (hs : Stands s (false :: uintBits 6 t)) :
    Refused (subframe c bps) .malformedStream s := by
  refine Refused.of_eq (t := moveBy 7 s) ?_ ((subframe_of_ready hn hmax).trans
    (behindChecks_of_typeCode (by omega) hb hs)) rfl
  rw [behindTypeCode_of_none (classify_reserved ht)]
  exact .of_raised rfl

theorem refused_of_lpcOrder {t : Nat} (h32 : 32 ≤ t) (h64 : t < 64) (hlpc : s.cfg.maxLpcOrder < t - 31)
    (hs : Stands s (false :: uintBits 6 t)) : Refused (subframe c bps) .unsupportedStream s := by
  refine Refused.of_eq (t := moveBy 7 s) ?_ ((subframe_of_ready hn hmax).trans
    (behindChecks_of_typeCode h64 hb hs)) rfl
  rw [behindTypeCode_of_some (classify_lpc h32)]
  exact Refused.andThen (.of_raised (lpcKind_check_of_gt hlpc))

/-- A wasted-bits code with no stop bit left (R152). -/
theorem refused_of_noStop {t : Nat} (ht : t < 64) (hk : classify t = some k) (hc : k.Passes s.cfg)
    (hs : Stands s (false :: uintBits 6 t ++ [true]))
    (hnone : bitsAt s.buf (s.pos.toNat + 8) (List.replicate (8 * s.len.toNat - (s.pos.toNat + 8)) (!s.cfg.unaryStop)) = true) :
    Refused (subframe c bps) .malformedStream s := by
  have hpos : (moveBy 8 s).pos.toNat = s.pos.toNat + 8 := moveBy_pos (by have := hs.lt hb; simp at this; omega)
  refine Refused.of_eq (t := moveBy 8 s) ?_ (subframe_of_header hn hmax ht hk hc hb hs) rfl
  rw [subframeRest_eq, readWasted, if_pos rfl]
  exact Refused.bind (Refused.bind (.of_raised (readUnary_of_none (by rw [hpos]; exact hnone))))

theorem refused_of_wasted {t : Nat} (ht : t < 64) (hk : classify t = some k) (hc : k.Passes s.cfg) (hw : bps ≤ wasted)
    (hs : Stands s (subframeStart s.cfg.unaryStop t wasted)) : Refused (subframe c bps) .malformedStream s :=
  Refused.of_eq (refused_require hw.not_gt _) (subframe_of_start hn hmax ht hk hc hb hs) rfl

/-- An order above NBLK (R225). -/
theorem refused_of_order {t : Nat} (ht : t < 64) (hk : classify t = some k) (hc : k.Passes s.cfg) (hw : wasted < bps)
    (ho : nblkOf s < k.order) (hs : Stands s (subframeStart s.cfg.unaryStop t wasted)) :
    Refused (subframe c bps) .malformedStream s := by
  refine Refused.of_eq ?_ (subframe_of_start hn hmax ht hk hc hb hs) rfl
  rw [behindStart, require_of hw, pure_andThen]
  exact refused_require ho.not_ge _

end Start

/-- The kind of a type code that SUBF does not refuse (R221, R224). -/
theorem exists_kind {cfg : Params} {t : Nat}
    (h : t ≤ 1 ∨ (8 ≤ t ∧ t ≤ 12) ∨ (32 ≤ t ∧ t < 64 ∧ t - 31 ≤ cfg.maxLpcOrder)) :
    t < 64 ∧ ∃ k, classify t = some k ∧ k.Passes cfg := by
  obtain h | ⟨h8, h12⟩ | ⟨h32, h64, hlpc⟩ := h
  · refine ⟨by omega, ?_⟩
    interval_cases t
    exacts [⟨_, rfl, passes_of_pure rfl⟩, ⟨_, rfl, passes_of_pure rfl⟩]
  · exact ⟨by omega, _, classify_fixed h8 h12, passes_of_pure rfl⟩
  · exact ⟨h64, _, classify_lpc h32, lpcKind_passes hlpc⟩

/-- The kind of a type code with an order. -/
theorem exists_kind_of_order {cfg : Params} {t order : Nat} (h : (8 ≤ t ∧ t ≤ 12 ∧ order = t - 8) ∨
      (32 ≤ t ∧ t < 64 ∧ order = t - 31 ∧ order ≤ cfg.maxLpcOrder)) :
    t < 64 ∧ ∃ k, classify t = some k ∧ k.Passes cfg ∧ k.order = order := by
  obtain ⟨h8, h12, rfl⟩ | ⟨h32, h64, rfl, hlpc⟩ := h
  · exact ⟨by omega, _, classify_fixed h8 h12, passes_of_pure rfl, rfl⟩
  · exact ⟨h64, _, classify_lpc h32, lpcKind_passes hlpc, rfl⟩

/-! The LPC fields (R227). -/

theorem refused_lpcFields_of_prec {order : Nat} (hb : Bounded s) (hs : Stands s (uintBits 4 15)) :
    Refused (lpcFields order) .malformedStream s := by
  refine Refused.of_eq (t := moveBy 4 s) ?_ (bind_of_ok (readBits_of_stands (by norm_num) hb hs)) rfl
  exact refused_require (by simp) _

theorem refused_lpcFields_of_shift {order p : Nat} {shift : Int} (hp : p < 15) (h16 : -16 ≤ shift) (hneg : shift < 0)
    (hb : Bounded s) (hs : Stands s (uintBits 4 p ++ sintBits 5 shift)) : Refused (lpcFields order) .malformedStream s := by
  obtain ⟨h1, h2⟩ := (stands_append hb).mp hs
  rw [length_uintBits] at h2
  have prec := readBits_of_stands (n := 4) (by omega) hb h1
  have fits : InRange shift 5 := by unfold InRange; omega
  have read := readSigned_of_stands (s := setPrec (p + 1) (moveBy 4 s)) (by norm_num) fits hb h2
  refine ⟨setShift (BitVec.ofInt 5 shift) (moveBy 5 (setPrec (p + 1) (moveBy 4 s))), ?_, rfl⟩
  rw [lpcFields, bind_of_ok prec, require_of hp.ne, pure_andThen, update_andThen, bind_of_ok read, update_andThen,
    require_of_not hneg.not_ge]
  rfl

/-- The state behind the start and the warm-up samples of a subframe of type code t. -/
def behindWarmup (c ebps t wasted : Nat) (warm : List Int) (s : State) : State :=
  let u := setSubframeHeader t warm.length wasted (moveBy (subframeStart s.cfg.unaryStop t wasted).length s)
  { moveBy (warm.flatMap (sintBits ebps)).length u with smp := cellsSet u.smp (smpAddress c 0) (warm.map wordOfInt) }

/-- Behind the warm-up samples of an LPC subframe SUBF is refused where its fields are. -/
theorem refused_of_lpcFields {wasted : Nat} {warm : List Int} {rest : List Bool} (hn : NblkReady s)
    (hmax : bps ≤ s.cfg.maxSubframeBps) (hb : Bounded s) (hw : wasted < bps) (h1 : 1 ≤ warm.length) (h32 : warm.length ≤ 32)
    (hlpc : warm.length ≤ s.cfg.maxLpcOrder) (hnblk : warm.length ≤ nblkOf s)
    (hwarm : ∀ v ∈ warm, InRange v (bps - wasted))
    (hs : Stands s (subframeStart s.cfg.unaryStop (31 + warm.length) wasted ++
      (warm.flatMap (sintBits (bps - wasted)) ++ rest)))
    (h : ∀ u : State, Bounded u → Stands u rest → Refused (lpcFields warm.length) code u) :
    Refused (subframe c bps) code s := by
  obtain ⟨hstart, hbehind⟩ := (stands_append hb).mp hs
  obtain ⟨hsamples, hrest⟩ := (stands_append (s := moveBy _ s) hb).mp hbehind
  have hk := classify_lpc (t := 31 + warm.length) (by omega)
  rw [Nat.add_sub_cancel_left] at hk
  have order : (lpcKind warm.length).order ≤ nblkOf s := hnblk
  have read := readSamples_of_stands (c := c) (s := setSubframeHeader (31 + warm.length) warm.length wasted (moveBy _ s))
    (by omega) hwarm hb hsamples
  have refused : Refused (lpcFields warm.length) code (behindWarmup c (bps - wasted) (31 + warm.length) wasted warm s) :=
    h _ hb hrest
  obtain ⟨u, e, hu⟩ := refused
  refine ⟨u, ?_, hu⟩
  rw [subframe_of_start hn hmax (by omega) hk (lpcKind_passes hlpc) hb hstart, behindStart, require_of hw, pure_andThen,
    require_of order, pure_andThen, update_andThen]
  refine bind_of_raised ?_
  show lpcBody warm.length c (bps - wasted) (nblkOf s) _ = _
  rw [lpcBody_eq]
  exact (andThen_of_ok read).trans (bind_of_raised e)

end Sys2Proof.Machine
end

section
/-! SUPPORT. SUBF's refusals inside a subframe (44_subframe.md R220 to R228, R186, R201, R202; 41_cursor.md R150, R152, R153):
the readers of the header and of a body against their fields, fields that break off, a residual section refused at its start,
and a sample outside the depth. -/

namespace Sys2Proof.Machine

variable {α : Type} {stop : Bool} {s t : State} {c bps ebps nblk maxLpc : Nat} {code : Code}

/-! Readers against their fields. -/

namespace Follows

theorem require {p : Prop} [Decidable p] (h : p) : Follows stop (Cmd.require p code) () [] := by
  rw [Cmd.require, if_pos h]; exact .pure ()

/-- A unary code (R152). -/
theorem readUnary (q : Nat) : Follows stop readUnary q [⟨.unary, unaryBits stop q⟩] where
  reads hstop hb hs := by
    subst hstop
    rw [fieldBits_singleton] at hs ⊢
    rw [length_unaryBits]
    exact ⟨_, readUnary_of_stands hb hs, .refl _⟩
  refuses {s code} hstop hb h := by
    subst hstop
    obtain ⟨j, hj, hs, hend, rfl⟩ | ⟨k, q, hkind, -⟩ := h.singleton
    · have noStop : (unaryBits s.cfg.unaryStop q).take j =
          List.replicate (8 * s.len.toNat - s.pos.toNat) (!s.cfg.unaryStop) := by
        rw [length_unaryBits] at hj
        rw [unaryBits, List.take_append_of_le_length (by simp; omega), List.take_replicate]
        congr 1; omega
      exact ⟨_, readUnary_of_none (by rw [← noStop]; exact hs.2), rfl⟩
    · cases hkind

/-- The wasted-bits count (R131, R222). -/
theorem readWasted (wasted : Nat) : Follows stop (readWasted (decide (0 < wasted))) wasted
    (if 0 < wasted then [⟨.unary, unaryBits stop (wasted - 1)⟩] else []) := by
  by_cases h : 0 < wasted
  · rw [if_pos h, Machine.readWasted, if_pos (decide_eq_true h)]
    have counted : Follows stop (Cmd.pure (wasted - 1 + 1)) wasted [] := by rw [Nat.sub_add_cancel h]; exact .pure _
    exact .bind (fs := [_]) (readUnary _) counted
  · obtain rfl := Nat.eq_zero_of_not_pos h
    exact .pure 0

/-- A loop that reads one signed value after another, doing with it what the cursor does not see. -/
theorem forRange_readSigned {write : Nat → Int → Cmd Unit} {n : Nat} (hn : 1 ≤ n)
    (hw : ∀ i v, Follows stop (write i v) () []) :
    ∀ {vs : List Int} {i : Nat}, (∀ v ∈ vs, InRange v n) →
      Follows stop (Cmd.forRange (fun i => (Machine.readSigned n).bind (write i)) vs.length i) ()
        (vs.map fun v => ⟨.fixed, sintBits n v⟩)
  | [], _, _ => .pure ()
  | v :: vs, i, h => by
    obtain ⟨hv, hvs⟩ := List.forall_mem_cons.mp h
    have field : if n = 0 then v = 0 else InRange v n := by rwa [if_neg (by omega)]
    rw [List.length_cons, forRange_succ, List.map_cons]
    exact .andThen (fs := [_]) (.bind (fs := [_]) (readSigned field) (hw i v)) (forRange_readSigned hn hw hvs)

theorem readSamples {vs : List Int} (h1 : 1 ≤ ebps) (h : ∀ v ∈ vs, InRange v ebps) :
    Follows stop (readSamples c ebps vs.length) () (vs.map fun v => ⟨.fixed, sintBits ebps v⟩) :=
  forRange_readSigned (write := writeSmp c) h1 (fun _ _ => .update fun _ => ⟨rfl, rfl, rfl, rfl, rfl⟩) h

/-- The LPC fields (R227). -/
theorem lpcFields {prec shift : Nat} {cs : List Int} (hprec : 1 ≤ prec ∧ prec ≤ 15) (hshift : shift ≤ 15)
    (hcs : ∀ v ∈ cs, InRange v prec) : Follows stop (lpcFields cs.length) shift
      ([⟨.fixed, uintBits 4 (prec - 1)⟩, ⟨.fixed, sintBits 5 shift⟩] ++ cs.map fun v => ⟨.fixed, sintBits prec v⟩) := by
  have notReserved : prec - 1 ≠ 15 := by omega
  have nonneg : (0 : Int) ≤ shift := Int.natCast_nonneg shift
  have setsPrec : Follows stop (Cmd.update (setPrec prec)) () [] := .update fun _ => ⟨rfl, rfl, rfl, rfl, rfl⟩
  have setsShift : Follows stop (Cmd.update (setShift (BitVec.ofInt 5 shift))) () [] :=
    .update fun _ => ⟨rfl, rfl, rfl, rfl, rfl⟩
  have coefficients : Follows stop (Cmd.forRange (readCoefficient prec) cs.length 0) () _ :=
    forRange_readSigned (write := fun j v => Cmd.update (setQlp j (BitVec.ofInt 16 v))) hprec.1
      (fun _ _ => .update fun _ => ⟨rfl, rfl, rfl, rfl, rfl⟩) hcs
  refine .bind (fs := [_]) (readBits (by omega)) ?_
  rw [require_of notReserved, pure_andThen, Nat.sub_add_cancel hprec.1]
  refine .andThen (fs := []) setsPrec (.bind (fs := [_]) (readSigned (inRange_five hshift)) (.andThen (fs := []) setsShift ?_))
  rw [require_of nonneg, pure_andThen, Int.toNat_natCast, ← List.append_nil (List.map _ cs)]
  exact .andThen coefficients (.pure shift)

end Follows

/-! Bodies that break off. -/

/-- What stands before the residual section of a predicted body, field by field: its bits, and SUBF refuses the body where
they break off. -/
structure HeadFields (x : BodyCode) (p : PredictedCode) (c nblk ebps : Nat) (stop : Bool) (fs : List BitField) : Prop where
  fields : x.fields stop ebps = fs ++ p.residual.fields stop
  before : x.beforeSection ebps = some (fieldBits fs)
  refuses : ∀ {s code}, s.cfg.unaryStop = stop → Bounded s → BreaksOff s fs code → Refused (x.kind.body c ebps nblk) code s

theorem BodyCode.exists_headFields {x : BodyCode} {p : PredictedCode} (hp : x.predicted = some p) (h1 : 1 ≤ ebps)
    (hl : x.fieldsLegal maxLpc nblk ebps = true) (c : Nat) (stop : Bool) : ∃ fs, HeadFields x p c nblk ebps stop fs := by
  cases x with
  | constant v => cases hp
  | verbatim xs => cases hp
  | fixed warm sec =>
    cases hp
    obtain ⟨-, -, hwarm, -⟩ := fixedLegal_of_fieldsLegal hl
    refine ⟨_, rfl, congrArg some (fieldBits_map ..).symm, fun hstop hb h => ?_⟩
    exact Refused.andThen ((Follows.readSamples h1 hwarm).refuses hstop hb h)
  | lpc warm prec shift cs sec =>
    cases hp
    have legal := lpcLegal_of_fieldsLegal hl
    refine ⟨_, rfl, congrArg some ?_, fun hstop hb h => ?_⟩
    · simp [fieldBits_map]
    · have fields := Follows.andThen (Follows.readSamples (stop := stop) (c := c) h1 legal.warmup)
        (Follows.lpcFields legal.prec_range legal.shift_le legal.coefficients)
      rw [← List.append_assoc, legal.length_eq] at fields
      have whole : (BodyCode.lpc warm prec shift cs sec).kind.body c ebps nblk =
          ((readSamples c ebps warm.length).andThen (lpcFields warm.length)).bind fun shift =>
            predictedTail (lpcPrediction warm.length shift c) warm.length nblk c ebps :=
        (lpcBody_eq ..).trans (bind_assoc ..).symm
      rw [whole]
      exact Refused.bind (fields.refuses hstop hb h)

/-- The samples of a body without a prediction are its fields, which fit (R228). -/
theorem BodyCode.inRange_of_not_predicted {x : BodyCode} (hp : x.predicted = none)
    (hl : x.fieldsLegal maxLpc nblk ebps = true) : ∀ v ∈ x.samples nblk, InRange v ebps := by
  cases x with
  | constant v =>
    intro u hu
    rw [List.eq_of_mem_replicate hu]
    exact of_decide_eq_true hl
  | verbatim xs =>
    rw [fieldsLegal, Bool.and_eq_true, allFit_iff] at hl
    exact hl.2
  | fixed warm sec => cases hp
  | lpc warm prec shift cs sec => cases hp

/-- Behind a head that stands, SUBF is refused where the residual section is. -/
theorem HeadRead.refused {x : BodyCode} {p : PredictedCode} {start : List Bool} (head : HeadRead x p c start s t)
    (hn : NblkReady s) (h : Refused (sectionBehindNblk (nblkOf s) p.warmup.length) code t) :
    Refused (predictedTail (x.prediction c) p.warmup.length (nblkOf s) c ebps) code t := by
  have run := residualSection_of_ready (order := p.warmup.length) (head.nblkReady hn)
  rw [head.nblkOf_eq] at run
  exact Refused.andThen (h.of_eq run rfl)

/-- A body that breaks off is refused (R150, R152, R153). -/
theorem BodyCode.refused_of_breaksOff {x : BodyCode} (h1 : 1 ≤ ebps) (hn : NblkReady s)
    (hl : x.fieldsLegal maxLpc (nblkOf s) ebps = true) (hb : Bounded s)
    (h : BreaksOff s (x.fields s.cfg.unaryStop ebps) code) : Refused (x.kind.body c ebps (nblkOf s)) code s := by
  cases hp : x.predicted with
  | some p =>
    obtain ⟨fs, hfields⟩ := exists_headFields hp h1 hl c s.cfg.unaryStop
    rw [hfields.fields] at h
    obtain h | ⟨hstart, h⟩ := h.append hb
    · exact hfields.refuses rfl hb h
    · obtain ⟨t, run, head⟩ := body_of_head (c := c) hp h1 hl hb hfields.before hstart
      have broken : BreaksOff t (p.residual.fields t.cfg.unaryStop) code := by
        rw [head.only]; exact h
      have refused := (SectionCode.follows (predicted_legal hp hl).section_legal).refuses rfl (head.bounded hb) broken
      exact Refused.of_eq (head.refused hn refused) run head.undefRead
  | none =>
    cases x with
    | constant v =>
      have field : if ebps = 0 then v = 0 else InRange v ebps := by rw [if_neg (by omega)]; exact of_decide_eq_true hl
      exact Refused.bind ((Follows.readSigned field).refuses rfl hb h)
    | verbatim xs =>
      simp only [fieldsLegal, Bool.and_eq_true, decide_eq_true_eq, allFit_iff] at hl
      obtain ⟨hlen, hxs⟩ := hl
      have read := Follows.readSamples (stop := s.cfg.unaryStop) (c := c) h1 hxs
      rw [hlen] at read
      exact read.refuses rfl hb h
    | fixed warm sec => cases hp
    | lpc warm prec shift cs sec => cases hp

/-- The fields of a header byte (R130). -/
def headerFields (t : Nat) (flag : Bool) : List BitField := [⟨.fixed, [false]⟩, ⟨.fixed, uintBits 6 t⟩, ⟨.fixed, [flag]⟩]

/-- The fields before the body (R130, R131). -/
def SubframeCode.startFields (stop : Bool) (x : SubframeCode) : List BitField :=
  headerFields x.body.typeCode (decide (0 < x.wasted)) ++
    if 0 < x.wasted then [⟨.unary, unaryBits stop (x.wasted - 1)⟩] else []

theorem SubframeCode.fieldBits_startFields (stop : Bool) (x : SubframeCode) :
    fieldBits (x.startFields stop) = subframeStart stop x.body.typeCode x.wasted := by
  rw [startFields, headerFields, subframeStart]; split <;> simp

theorem SubframeCode.fields_eq (stop : Bool) (bps : Nat) (x : SubframeCode) :
    x.fields stop bps = x.startFields stop ++ x.body.fields stop (bps - x.wasted) := rfl

/-- A header byte that breaks off (R150). -/
theorem refused_of_headerFields {t : Nat} {k : SubframeKind} {flag : Bool} (hn : NblkReady s)
    (hmax : bps ≤ s.cfg.maxSubframeBps) (ht : t < 64) (hk : classify t = some k) (hc : k.Passes s.cfg) (hb : Bounded s)
    (h : BreaksOff s (headerFields t flag) code) : Refused (subframe c bps) code s := by
  refine Refused.of_eq (t := s) ?_ (subframe_of_ready hn hmax) rfl
  obtain h | ⟨hpad, h⟩ := BreaksOff.append (fs := [_]) hb h
  · exact Refused.bind ((Follows.readBits (v := 0) (n := 1) (by norm_num)).refuses rfl hb h)
  · rw [fieldBits_singleton] at hpad h
    obtain h | ⟨hcode, h⟩ := BreaksOff.append (fs := [_]) (s := moveBy _ s) hb h
    · refine Refused.of_eq (t := moveBy 1 s) ?_ (bind_of_ok (readBit_of_stands hb hpad)) rfl
      rw [Bool.toNat_false, require_of rfl, pure_andThen]
      exact Refused.bind ((Follows.readBits ht).refuses rfl hb h)
    · rw [fieldBits_singleton] at hcode h
      have moved := moveBy_moveBy (b := (uintBits 6 t).length) (hpad.lt hb)
      rw [moved, length_uintBits] at h
      have behind := behindChecks_of_typeCode (c := c) (bps := bps) (nblk := nblkOf s) ht hb
        ((stands_append (xs := [false]) hb).mpr ⟨hpad, hcode⟩)
      rw [behindTypeCode_of_some hk, andThen_of_ok (hc (moveBy 7 s) rfl)] at behind
      rw [← uintBits_one_toNat flag] at h
      exact Refused.of_eq (t := moveBy 7 s) (Refused.bind ((Follows.readBits flag.toNat_lt).refuses rfl hb h)) behind rfl

section Subframe

variable {x : SubframeCode} (hn : NblkReady s) (hmax : bps ≤ s.cfg.maxSubframeBps) (hwasted : x.wasted < bps)
  (hl : x.body.fieldsLegal s.cfg.maxLpcOrder (nblkOf s) (bps - x.wasted) = true) (hb : Bounded s)

include hn hmax hwasted hl hb

/-- SUBF is refused where the body is. -/
theorem refused_of_body (hs : Stands s (subframeStart s.cfg.unaryStop x.body.typeCode x.wasted))
    (h : Refused (x.body.kind.body c (bps - x.wasted) (nblkOf s)) code (beforeBody x s)) :
    Refused (subframe c bps) code s :=
  Refused.of_eq (Refused.andThen h) (subframe_of_body hn hmax hwasted hl hb hs) rfl

omit hwasted in
/-- A header byte or a wasted-bits count that breaks off (R150, R152). -/
theorem refused_of_start (h : BreaksOff s (x.startFields s.cfg.unaryStop) code) : Refused (subframe c bps) code s := by
  obtain ⟨ht, hk, hc⟩ := BodyCode.classify_typeCode hl
  obtain h | ⟨hs, h⟩ := h.append hb
  · exact refused_of_headerFields hn hmax ht hk hc hb h
  · have header : fieldBits (headerFields x.body.typeCode (decide (0 < x.wasted))) =
        false :: uintBits 6 x.body.typeCode ++ [decide (0 < x.wasted)] := by simp [headerFields]
    rw [header] at hs h
    have moved : (false :: uintBits 6 x.body.typeCode ++ [decide (0 < x.wasted)]).length = 8 := by simp
    rw [moved] at h
    refine Refused.of_eq (t := moveBy 8 s) ?_ (subframe_of_header hn hmax ht hk hc hb hs) rfl
    rw [subframeRest_eq]
    exact Refused.bind ((Follows.readWasted x.wasted).refuses rfl hb h)

/-- A subframe that breaks off (R150, R152, R153). -/
theorem refused_of_breaksOff (h : BreaksOff s (x.fields s.cfg.unaryStop bps) code) :
    Refused (subframe c bps) code s := by
  rw [SubframeCode.fields_eq] at h
  obtain h | ⟨hstart, h⟩ := h.append hb
  · exact refused_of_start hn hmax hl hb h
  · rw [SubframeCode.fieldBits_startFields] at hstart h
    exact refused_of_body hn hmax hwasted hl hb hstart
      (BodyCode.refused_of_breaksOff (by omega) (hn.beforeBody x) hl hb h)

/-- A residual section refused at its start (R201, R202). -/
theorem refused_of_badSection {start bad : List Bool} (hbefore : x.body.beforeSection (bps - x.wasted) = some start)
    (hbad : BadSectionStart (nblkOf s) x.body.order bad)
    (hs : Stands s (subframeStart s.cfg.unaryStop x.body.typeCode x.wasted ++ (start ++ bad))) :
    Refused (subframe c bps) .malformedStream s := by
  obtain ⟨p, hp⟩ := BodyCode.exists_predicted hbefore
  obtain ⟨start', hof⟩ := BodyCode.predicted_of hp (nblkOf s) (bps - x.wasted) s.cfg.unaryStop
  rw [hof.order] at hbad
  obtain ⟨hstart, hbehind⟩ := (stands_append hb).mp hs
  obtain ⟨hhead, -⟩ := (stands_append (s := beforeBody x s) hb).mp hbehind
  obtain ⟨t, run, head⟩ := BodyCode.body_of_head (c := c) hp (by omega) hl (s := beforeBody x s) hb hbefore hhead
  have bounded := head.bounded (s := beforeBody x s) hb
  have refused := sectionBehindNblk_of_badStart hbad bounded (head.stands (s := beforeBody x s) hb hbehind)
  refine refused_of_body hn hmax hwasted hl hb hstart (Refused.of_eq (head.refused (hn.beforeBody x) ?_) run head.undefRead)
  exact ⟨_, refused, rfl⟩

/-- A predicted sample outside the effective depth (R186). -/
theorem refused_of_outside (hbps : bps ≤ 33) (hs : Stands s (x.bits s.cfg.unaryStop bps))
    (hout : ∃ v ∈ x.body.samples (nblkOf s), ¬ InRange v (bps - x.wasted)) :
    Refused (subframe c bps) .malformedStream s := by
  obtain ⟨hstart, hbody⟩ := (stands_append hb).mp hs
  refine refused_of_body hn hmax hwasted hl hb hstart ?_
  cases hp : x.body.predicted with
  | some p =>
    obtain ⟨start, hof⟩ := BodyCode.predicted_of hp (nblkOf s) (bps - x.wasted) s.cfg.unaryStop
    rw [hof.samples] at hout
    rw [hof.bits] at hbody
    obtain ⟨hhead, -⟩ := (stands_append (s := beforeBody x s) hb).mp hbody
    obtain ⟨t, run, head⟩ := BodyCode.body_of_head (c := c) hp (by omega) hl (s := beforeBody x s) hb hof.before hhead
    have nblk : nblkOf t = nblkOf s := head.nblkOf_eq
    have stands := head.stands (s := beforeBody x s) hb hbody
    have stop : t.cfg.unaryStop = s.cfg.unaryStop := congrArg _ head.cfg
    rw [← stop] at stands
    have refused := predictedTail_of_outside (s := t) (ebps := bps - x.wasted) (by omega)
      (head.nblkReady (hn.beforeBody x)) (by rw [nblk]; exact BodyCode.predicted_legal hp hl)
      (head.bounded (s := beforeBody x s) hb) stands head.holds (head.predicts _ rfl rfl) hout
    rw [nblk] at refused
    exact Refused.of_eq refused run head.undefRead
  | none =>
    obtain ⟨v, hv, outside⟩ := hout
    exact absurd (BodyCode.inRange_of_not_predicted hp hl v hv) outside

end Subframe

end Sys2Proof.Machine

open Sys2Proof Sys2Proof.Machine

/-- Settles O33: each check that SUBF makes, behind the fields that stand before it. -/
theorem subfRejectsReservedHeaders : Obligations.SubfRejectsReservedHeaders := by
  intro c bps s hwf hn
  have ended {code : Code} (hcode : code ≠ .illegalCommand)
      (h : Refused (subframe c.toNat bps.toNat) code (beginCommand s)) :=
    exec_subf_of_refused (s := s) hwf hcode h
  have hbps : bps.toNat ≤ 33 := (of_decide_eq_true hwf).2.2
  refine ⟨fun hdeep => ended (by decide) (.of_raised (subframe_of_deep hn hdeep)), fun hmax hb => ?_⟩
  refine ⟨fun hs => ?padding, fun t ht hs => ?reserved, fun t h32 h64 hlpc hs => ?lpcOrder, fun t wasted ht => ?start,
    fun t wasted order ht hw ho hs => ?order, fun wasted warm hw h1 h32 hlpc hnblk hwarm => ?lpc,
    fun x hw hl hout hs => ?outside, fun x start bad hw hl hbefore hbad hs => ?badSection, fun x before f hw hl => ?fields⟩
  case padding => exact ended (by decide) (refused_of_padding (s := beginCommand s) hn hmax hb hs)
  case reserved => exact ended (by decide) (refused_of_reserved (s := beginCommand s) hn hmax hb ht hs)
  case lpcOrder => exact ended (by decide) (refused_of_lpcOrder (s := beginCommand s) hn hmax hb h32 h64 hlpc hs)
  case start =>
    obtain ⟨h64, k, hk, hc⟩ := exists_kind ht
    exact ⟨fun hs hnone => ended (by decide) (refused_of_noStop (s := beginCommand s) hn hmax hb h64 hk hc hs hnone),
      fun hw hs => ended (by decide) (refused_of_wasted (s := beginCommand s) hn hmax hb h64 hk hc hw hs)⟩
  case order =>
    obtain ⟨h64, k, hk, hc, rfl⟩ := exists_kind_of_order ht
    exact ended (by decide) (refused_of_order (s := beginCommand s) hn hmax hb h64 hk hc hw ho hs)
  case lpc =>
    refine ⟨fun hs => ended (by decide) ?_, fun p shift hp h16 hneg hs => ended (by decide) ?_⟩
    · rw [List.append_assoc] at hs
      exact refused_of_lpcFields (s := beginCommand s) hn hmax hb hw h1 h32 hlpc hnblk hwarm hs fun u hbu hsu =>
        refused_lpcFields_of_prec hbu hsu
    · rw [List.append_assoc, List.append_assoc] at hs
      exact refused_of_lpcFields (s := beginCommand s) hn hmax hb hw h1 h32 hlpc hnblk hwarm hs fun u hbu hsu =>
        refused_lpcFields_of_shift hp h16 hneg hbu hsu
  case outside => exact ended (by decide) (refused_of_outside (s := beginCommand s) hn hmax hw hl hb hbps hs hout)
  case badSection =>
    rw [List.append_assoc] at hs
    exact ended (by decide) (refused_of_badSection (s := beginCommand s) hn hmax hw hl hb hbefore hbad hs)
  case fields =>
    have broken {code : Code} (h : BreaksOff s (x.fields s.cfg.unaryStop bps.toNat) code) :=
      ended h.ne_illegalCommand (refused_of_breaksOff (s := beginCommand s) hn hmax hw hl hb h)
    exact ⟨fun k hcut => broken ⟨before, f, .inl ⟨k, hcut, rfl⟩⟩, fun hlarge => broken ⟨before, f, .inr ⟨hlarge, rfl⟩⟩⟩

end

section
/-! SUPPORT. The samples that a successful SUBF leaves (44_subframe.md R229): what each part of it does to the channel and to
SF_WASTED, where it ends well. -/

namespace Sys2Proof.Machine

variable {α β : Type} {s t : State} {c bps e nblk : Nat}

/-! Parts that end well. -/

/-- Where m ends well from a state with P, it leaves one with Q. -/
def Leads (P Q : State → Prop) (m : Cmd α) : Prop := ∀ ⦃s t : State⦄ ⦃a : α⦄, P s → m s = .ok a t → Q t

namespace Leads

variable {P P' Q : State → Prop} {m : Cmd α} {k : α → Cmd β}

theorem bind (hm : Leads P P' m) (hk : ∀ a, Leads P' Q (k a)) : Leads P Q (m.bind k) := fun _ _ _ hp run => by
  obtain ⟨a, u, first, rest⟩ := bind_eq_ok.mp run
  exact hk a (hm hp first) rest

theorem andThen {k : Cmd β} (hm : Leads P P' m) (hk : Leads P' Q k) : Leads P Q (m.andThen k) := bind hm fun _ => hk

/-- What is known of no state is known behind any part. -/
theorem after (hk : ∀ a, Leads (fun _ => True) Q (k a)) : Leads (fun _ => True) Q (m.bind k) :=
  bind (fun _ _ _ _ _ => trivial) hk

theorem require {p : Prop} [Decidable p] {code : Code} {k : Cmd β} (hk : p → Leads P Q k) :
    Leads P Q ((Cmd.require p code).andThen k) := fun _ _ _ hp run => by
  obtain ⟨a, u, first, rest⟩ := bind_eq_ok.mp run
  obtain ⟨h, rfl⟩ := require_eq_ok.mp first
  exact hk h hp rest

theorem raise {code : Code} : Leads P Q (Cmd.raise code : Cmd α) := fun _ _ _ _ run => nomatch run

end Leads

/-! Parts that write no sample. -/

/-- SMP and SF_WASTED are the same. -/
def SameSamples (s t : State) : Prop := t.smp = s.smp ∧ t.sf.wasted = s.sf.wasted

theorem sameSamples_closed : Closed SameSamples where
  refl _ := ⟨rfl, rfl⟩
  trans h1 h2 := ⟨h2.1.trans h1.1, h2.2.trans h1.2⟩

theorem ResidualsOnly.sameSamples (h : ResidualsOnly s t) : SameSamples s t := by
  unfold ResidualsOnly at h; rw [h]; exact ⟨rfl, rfl⟩

theorem readBits_sameSamples (n : Nat) : Keeps SameSamples (readBits n) :=
  (readBits_keeps n).mono fun _ _ h => h.residuals.sameSamples

theorem readSigned_sameSamples (n : Nat) : Keeps SameSamples (readSigned n) :=
  (readSigned_keeps n).mono fun _ _ h => h.residuals.sameSamples

theorem lpcFields_sameSamples (order : Nat) : Keeps SameSamples (lpcFields order) :=
  have closed := sameSamples_closed
  .bind closed (readBits_sameSamples 4) fun _ => .andThen closed (.require closed _ _) <|
  .andThen closed (.update fun _ => ⟨rfl, rfl⟩) <| .bind closed (readSigned_sameSamples 5) fun _ =>
  .andThen closed (.update fun _ => ⟨rfl, rfl⟩) <| .andThen closed (.require closed _ _) <|
  .andThen closed (.forRange closed fun _ _ _ => .bind closed (readSigned_sameSamples _) fun _ =>
    .update fun _ => ⟨rfl, rfl⟩) (.pure closed _)

/-! Channels whose first entries fit. -/

/-- SF_WASTED is w, and SMP[c][0..n-1] hold values of e bits. -/
structure ChannelFits (c e n : Nat) (w : BitVec 6) (s : State) : Prop where
  wasted : s.sf.wasted = w
  fits : ∀ i, i < n → ∃ v : Int, InRange v e ∧ cellGet s.smp (smpAddress c i) = some (wordOfInt v)

variable {n : Nat} {w : BitVec 6}

theorem Leads.of_sameSamples {m : Cmd α} (h : Keeps SameSamples m) :
    Leads (ChannelFits c e n w) (ChannelFits c e n w) m := fun _ _ _ hp run => by
  obtain ⟨smp, wasted⟩ := h.of_ok run
  exact ⟨wasted.trans hp.wasted, fun i hi => by rw [smp]; exact hp.fits i hi⟩

/-- Where m ends well it has written a value of e bits to SMP[c][i], and changed neither another sample nor SF_WASTED. -/
def WritesFitting (c e i : Nat) (m : Cmd Unit) : Prop :=
  ∀ ⦃s t : State⦄, m s = .ok () t → ∃ v, InRange v e ∧ SameSamples (setSmp c i (wordOfInt v) s) t

/-- A loop that writes one entry after another. -/
theorem Leads.forRange {body : Nat → Cmd Unit} (h : ∀ i, WritesFitting c e i (body i)) :
    ∀ {count first : Nat}, Leads (ChannelFits c e first w) (ChannelFits c e (first + count) w)
      (Cmd.forRange body count first)
  | 0, _ => fun _ _ _ hp run => by cases run; exact hp
  | count + 1, first => by
    have turn : Leads (ChannelFits c e first w) (ChannelFits c e (first + 1) w) (body first) := fun _ _ _ hp run => by
      obtain ⟨v, hv, smp, wasted⟩ := h first run
      refine ⟨wasted.trans hp.wasted, fun i hi => ?_⟩
      rw [smp, setSmp_smp, cellGet_cellSet]
      split_ifs with same
      · exact ⟨v, hv, rfl⟩
      · refine hp.fits i ?_
        unfold smpAddress at same
        omega
    rw [forRange_succ, ← Nat.add_assoc, Nat.add_right_comm]
    exact turn.andThen (Leads.forRange h)

/-- A write behind a part that changes no sample. -/
theorem writesFitting_of_sameSamples {i : Nat} {v : Int} {u : State} (hv : InRange v e) (h : SameSamples s u)
    (run : writeSmp c i v u = .ok () t) : ∃ v, InRange v e ∧ SameSamples (setSmp c i (wordOfInt v) s) t := by
  cases run
  exact ⟨v, hv, congrArg (cellSet · _ _) h.1, h.2⟩

/-- What `ReadSigned` gives fits its field. -/
theorem inRange_of_readSigned {v : Int} (he : 1 ≤ e) (run : readSigned e s = .ok v t) : InRange v e := by
  rw [readSigned, if_neg (by omega)] at run
  obtain ⟨bits, u, read, hv⟩ := bind_eq_ok.mp run
  obtain ⟨hlt, -⟩ := (readBits_ensures (f := machineFootprint) e).of_ok trivial read
  cases hv
  obtain ⟨e, rfl⟩ := Nat.exists_eq_succ_of_ne_zero (by omega : e ≠ 0)
  rw [Nat.pow_succ] at hlt
  zify at hlt
  rw [sext, if_neg (by omega)]
  simp only [InRange, Nat.succ_eq_add_one, Nat.add_sub_cancel, pow_succ]
  zify
  split_ifs <;> omega

/-! Bodies. -/

theorem readSamples_leads (he : 1 ≤ e) (count : Nat) :
    Leads (ChannelFits c e 0 w) (ChannelFits c e count w) (readSamples c e count) := by
  have loop := Leads.forRange (c := c) (e := e) (w := w) (count := count) (first := 0)
    (body := fun i => (readSigned e).bind fun v => writeSmp c i v) fun i s t run => ?_
  · rwa [Nat.zero_add] at loop
  · obtain ⟨v, u, read, write⟩ := bind_eq_ok.mp run
    exact writesFitting_of_sameSamples (inRange_of_readSigned he read) ((readSigned_sameSamples e).of_ok read) write

theorem constantBody_leads (he : 1 ≤ e) :
    Leads (ChannelFits c e 0 w) (ChannelFits c e nblk w) (constantBody c e nblk) := fun _ _ _ hp run => by
  obtain ⟨v, u, read, loop⟩ := bind_eq_ok.mp run
  have fits := Leads.forRange (c := c) (e := e) (w := w) (count := nblk) (first := 0) (body := fun i => writeSmp c i v)
    (fun i s t => writesFitting_of_sameSamples (inRange_of_readSigned he read) (sameSamples_closed.refl s))
    (Leads.of_sameSamples (readSigned_sameSamples e) hp read) loop
  rwa [Nat.zero_add] at fits

theorem predictedTail_leads {prediction : Nat → Cmd Int} {order : Nat} (hp : ∀ i, Keeps NoteOnly (prediction i))
    (ho : order ≤ nblk) :
    Leads (ChannelFits c e order w) (ChannelFits c e nblk w) (predictedTail prediction order nblk c e) := by
  have loop := Leads.forRange (c := c) (e := e) (w := w) (count := nblk - order) (first := order)
    (body := reconstructStep prediction order c e) fun i s t run => ?_
  · rw [Nat.add_sub_cancel' ho] at loop
    exact .andThen (.of_sameSamples ((residualSection_keeps order).mono fun _ _ h => h.sameSamples)) loop
  · obtain ⟨r, u, residual, run⟩ := bind_eq_ok.mp run
    obtain ⟨p, v, predicted, run⟩ := bind_eq_ok.mp run
    obtain ⟨a, v', check, write⟩ := bind_eq_ok.mp run
    obtain ⟨fits, rfl⟩ := require_eq_ok.mp check
    have first := (readRes_keeps sameSamples_closed _).of_ok residual
    have second := ((hp i).of_ok predicted).residuals.sameSamples
    exact writesFitting_of_sameSamples fits (sameSamples_closed.trans first second) write

/-- A body that ends well leaves a channel of its depth (R226 to R228, R186). -/
theorem body_leads {t : Nat} {k : SubframeKind} (hk : classify t = some k) (he : 1 ≤ e) (ho : k.order ≤ nblk) :
    Leads (ChannelFits c e 0 w) (ChannelFits c e nblk w) (k.body c e nblk) := by
  unfold classify at hk
  split_ifs at hk <;> cases hk
  · exact constantBody_leads he
  · exact readSamples_leads he nblk
  · exact .andThen (readSamples_leads he _) (predictedTail_leads (fixedPrediction_keeps _ c) ho)
  · show Leads _ _ (lpcBody _ c e nblk)
    rw [lpcBody_eq]
    exact .andThen (readSamples_leads he _) (.bind (.of_sameSamples (lpcFields_sameSamples _)) fun shift =>
      predictedTail_leads (lpcPrediction_keeps _ shift c) ho)

/-! The shift. -/

/-- SMP[c][0..nblk-1] are values of the effective depth, shifted by the wasted bits (R229). -/
def SamplesFit (c bps nblk : Nat) (t : State) : Prop :=
  ∀ i, i < nblk → ∃ v : Int,
    InRange v (bps - t.sf.wasted.toNat) ∧
    cellGet t.smp (smpAddress c i) = some (wordOfInt (v * 2 ^ t.sf.wasted.toNat)) ∧
    InRange (v * 2 ^ t.sf.wasted.toNat) bps

theorem inRange_shifted {v : Int} {wasted : Nat} (hw : wasted < bps) (hv : InRange v (bps - wasted)) :
    InRange (v * 2 ^ wasted) bps := by
  obtain ⟨low, high⟩ := hv
  have depth : (2 : Int) ^ (bps - 1) = 2 ^ (bps - wasted - 1) * 2 ^ wasted := by rw [← pow_add]; congr 1; omega
  have pos : (1 : Int) ≤ 2 ^ wasted := one_le_pow₀ (by norm_num)
  rw [InRange, depth]
  constructor <;> nlinarith

theorem shift_leads {wasted : Nat} (hbps : bps ≤ 33) (hw : wasted < bps) :
    Leads (ChannelFits c (bps - wasted) nblk (BitVec.ofNat 6 wasted)) (SamplesFit c bps nblk)
      (if 0 < wasted then shiftSamples c wasted nblk else Cmd.pure ()) := fun s t _ hp run => by
  obtain ⟨value, fits⟩ := Classical.skolem.mp fun i : Fin nblk => hp.fits i i.isLt
  have held : holdsAt s.smp (smpAddress c 0) (List.ofFn value) = true := (holdsAt_iff _ _ _).mpr fun i hi => by
    rw [List.length_ofFn] at hi
    rw [← smpAddress_eq_add, List.getElem_ofFn]
    exact (fits ⟨i, hi⟩).2
  have small : ∀ v ∈ List.ofFn value, FitsEntry v := by
    rw [List.forall_mem_ofFn_iff]
    exact fun i => inRange_fitsEntry (by omega) (fits i).1
  obtain ⟨u, done, only, holds, -⟩ := shift_of_holds wasted held small
  rw [List.length_ofFn, run] at done
  cases done
  have count : t.sf.wasted.toNat = wasted := by
    rw [only]
    exact (congrArg BitVec.toNat hp.wasted).trans (Nat.mod_eq_of_lt (by omega))
  intro i hi
  have entry := (holdsAt_iff _ _ _).mp holds i (by simpa using hi)
  rw [← smpAddress_eq_add, List.getElem_map, List.getElem_ofFn] at entry
  rw [count]
  exact ⟨_, (fits ⟨i, hi⟩).1, entry, inRange_shifted hw (fits ⟨i, hi⟩).1⟩

/-! SUBF. -/

theorem behindStart_leads {t wasted : Nat} {k : SubframeKind} (hbps : bps ≤ 33) (hk : classify t = some k) :
    Leads (fun _ => True) (SamplesFit c bps nblk) (behindStart c bps nblk t wasted k) :=
  .require fun hw => .require fun ho =>
  .andThen (P' := ChannelFits c (bps - wasted) 0 (BitVec.ofNat 6 wasted))
    (fun _ _ _ _ run => by cases run; exact ⟨rfl, nofun⟩) <|
  .andThen (body_leads hk (by omega) ho) (shift_leads hbps hw)

theorem behindChecks_leads (hbps : bps ≤ 33) :
    Leads (fun _ => True) (SamplesFit c bps nblk) (behindChecks c bps nblk) :=
  .after fun _ => .require fun _ => .after fun t => by
    cases hk : classify t with
    | none => rw [behindTypeCode_of_none hk]; exact .raise
    | some k =>
      rw [behindTypeCode_of_some hk]
      exact .after fun _ => .after fun _ => .after fun _ => behindStart_leads hbps hk

/-- The block size that SUBF finds is NBLK's. -/
theorem subframe_leads (hbps : bps ≤ 33) : Leads (fun u => nblkOf u = nblk) (SamplesFit c bps nblk) (subframe c bps) :=
  fun _ _ _ hp run => by
    obtain ⟨n, u, checks, rest⟩ := bind_eq_ok.mp run
    obtain ⟨⟨rfl, -⟩, -⟩ := (subframeChecks_ensures (f := subframeFootprint c nblk) bps).of_ok hp checks
    exact behindChecks_leads hbps trivial rest

/-- A SUBF whose CODE is OK ended well, its operands legal. -/
theorem subf_of_code_ok {c bps : Byte} (h : exec (.subf c bps) s = .next t) (hcode : t.code = .ok) :
    bps.toNat ≤ 33 ∧ ∃ u, subframe c.toNat bps.toNat (beginCommand s) = .ok () u ∧ t = endCommand .ok u := by
  obtain ⟨code, u, run, rfl⟩ | ⟨code, u, raised, rfl⟩ := runCommand_next h
  · obtain ⟨_, v, check, rest⟩ := bind_eq_ok.mp run
    obtain ⟨⟨-, -, hbps⟩, rfl⟩ := require_eq_ok.mp check
    obtain ⟨_, w, body, ended⟩ := bind_eq_ok.mp rest
    cases ended
    exact ⟨hbps, _, body, rfl⟩
  · have keeps := (subframeCommand_keeps c.toNat bps.toNat (subframe_keeps c.toNat bps.toNat)).of_raised raised
    have stays := subframeCommand_stays (f := machineFootprint)
      (fun hc : c.toNat ≤ 7 => subframe_stays (machineFootprint_allowsSubframe hc) bps.toNat) bps.toNat
    obtain ⟨fatal, -⟩ := stays.of_raised trivial raised
    obtain ⟨-, -, -, -, same, -⟩ := fatalEnd_restores (k := .subframe c.toNat) (c := code) keeps.snapOf
    rw [hcode] at same
    rw [← same] at fatal
    exact absurd fatal (by decide)

end Sys2Proof.Machine

open Sys2Proof Sys2Proof.Machine

/-- Settles O34: the body leaves values of the effective depth, and the shift ends SUBF. -/
theorem subfSamplesFitTheirDepth : Obligations.SubfSamplesFitTheirDepth := by
  intro c bps s t run hcode
  obtain ⟨hbps, u, done, rfl⟩ := subf_of_code_ok run hcode
  have fits : SamplesFit c.toNat bps.toNat (nblkOf s) u := subframe_leads (s := beginCommand s) hbps rfl done
  exact fits

end

section
/-! SUPPORT. DECOR (45_decorrelator.md): its first loop only reads and checks the pairs, its second only writes them. -/

namespace Sys2Proof.Machine

variable {s : State} {xs ys : List Int}

/-! The reading loop (R240, R242, R243, R245). -/

/-- Both samples of every pair are inside the depth (R245). -/
abbrev PairsFit (pairs : List (Int × Int)) (bps : Nat) : Prop := ∀ p ∈ pairs, InRange p.1 bps ∧ InRange p.2 bps

/-- The loop over the pairs: it gives the left and right samples, and raises where one of them does not fit. -/
theorem decorrelatedPairs_of_holds {a bps : Nat} (h8 : 8 ≤ a) (h10 : a ≤ 10) : ∀ {xs ys : List Int} {i : Nat},
    xs.length = ys.length → holdsAt s.smp (smpAddress 0 i) xs = true → holdsAt s.smp (smpAddress 1 i) ys = true →
    (∀ v ∈ xs, FitsEntry v) → (∀ v ∈ ys, FitsEntry v) →
    decorrelatedPairs a bps xs.length i s =
      ((Cmd.require (PairsFit (List.zipWith (leftRight a) xs ys) bps) .malformedStream).andThen
        (Cmd.pure (List.zipWith (leftRight a) xs ys))) s
  | [], [], _, _, _, _, _, _ => by rw [require_of (by simp)]; rfl
  | x :: xs, y :: ys, i, hlen, hx, hy, hfx, hfy => by
    simp only [holdsAt, Bool.and_eq_true, decide_eq_true_eq, ← smpAddress_succ] at hx hy
    obtain ⟨hx, hxs⟩ := hx
    obtain ⟨hy, hys⟩ := hy
    obtain ⟨hfx, hfxs⟩ := List.forall_mem_cons.mp hfx
    obtain ⟨hfy, hfys⟩ := List.forall_mem_cons.mp hfy
    have rest := decorrelatedPairs_of_holds (bps := bps) h8 h10 (i := i + 1) (Nat.succ.inj hlen) hxs hys hfxs hfys
    set p := leftRight a x y
    have all : PairsFit (p :: List.zipWith (leftRight a) xs ys) bps ↔
        (InRange p.1 bps ∧ InRange p.2 bps) ∧ PairsFit (List.zipWith (leftRight a) xs ys) bps := List.forall_mem_cons
    rw [List.length_cons, List.zipWith_cons_cons, decorrelatedPairs, bind_of_ok (readSmp_of_get hfx hx),
      bind_of_ok (readSmp_of_get hfy hy), decorrelate_eq h8 h10]
    by_cases hp : InRange p.1 bps ∧ InRange p.2 bps
    · rw [require_of hp, pure_andThen, require_congr (all.trans (and_iff_right hp))]
      by_cases hps : PairsFit (List.zipWith (leftRight a) xs ys) bps
      · rw [require_of hps] at rest ⊢
        exact bind_of_ok rest
      · rw [require_of_not hps] at rest ⊢
        exact bind_of_raised rest
    · rw [require_of_not hp, require_of_not fun h => hp (all.mp h).1]; rfl

/-! The writing loop (R240). -/

/-- The pairs have been written to SMP[0] and SMP[1] from sample i on, from s to t. -/
structure PairsWritten (pairs : List (Int × Int)) (i : Nat) (s t : State) : Prop where
  only : t = { s with smp := t.smp }
  left : holdsAt t.smp (smpAddress 0 i) (pairs.map Prod.fst) = true
  right : holdsAt t.smp (smpAddress 1 i) (pairs.map Prod.snd) = true
  outside : ∀ x, (x < smpAddress 0 i ∨ smpAddress 0 (i + pairs.length) ≤ x) →
    (x < smpAddress 1 i ∨ smpAddress 1 (i + pairs.length) ≤ x) → cellGet t.smp x = cellGet s.smp x

/-- Inside a channel's 65536 entries the two channels do not overlap (R77), so every write stays. -/
theorem writePairs_written : ∀ {pairs : List (Int × Int)} {i : Nat} (s : State), i + pairs.length ≤ 65536 →
    ∃ t, writePairs pairs i s = .ok () t ∧ PairsWritten pairs i s t
  | [], _, s, _ => ⟨s, rfl, rfl, rfl, rfl, fun _ _ _ => rfl⟩
  | p :: pairs, i, s, hi => by
    rw [List.length_cons] at hi
    obtain ⟨t, run, written⟩ := writePairs_written (pairs := pairs) (i := i + 1)
      (setSmp 1 i (wordOfInt p.2) (setSmp 0 i (wordOfInt p.1) s)) (by omega)
    have kept : ∀ x, (x ≤ smpAddress 0 i ∨ smpAddress 0 (i + 1 + pairs.length) ≤ x) →
        (x ≤ smpAddress 1 i ∨ smpAddress 1 (i + 1 + pairs.length) ≤ x) → cellGet t.smp x =
        if x = smpAddress 1 i then some (wordOfInt p.2) else
        if x = smpAddress 0 i then some (wordOfInt p.1) else cellGet s.smp x := fun x h0 h1 => by
      rw [written.outside x (by rw [smpAddress_succ]; omega) (by rw [smpAddress_succ 1 i]; omega), setSmp_smp,
        setSmp_smp, cellGet_cellSet, cellGet_cellSet]
    refine ⟨t, run, by rw [written.only]; rfl, ?left, ?right, fun x h0 h1 => ?outside⟩
    case left =>
      have entry := kept (smpAddress 0 i) (.inl le_rfl) (by unfold smpAddress; omega)
      rw [if_neg (by unfold smpAddress; omega), if_pos rfl] at entry
      rw [List.map_cons, holdsAt, entry, decide_eq_true rfl, Bool.true_and, ← smpAddress_succ, written.left]
    case right =>
      have entry := kept (smpAddress 1 i) (by unfold smpAddress; omega) (.inl le_rfl)
      rw [if_pos rfl] at entry
      rw [List.map_cons, holdsAt, entry, decide_eq_true rfl, Bool.true_and, ← smpAddress_succ, written.right]
    case outside =>
      rw [List.length_cons] at h0 h1
      unfold smpAddress at h0 h1
      rw [kept x (by unfold smpAddress; omega) (by unfold smpAddress; omega), if_neg (by unfold smpAddress; omega),
        if_neg (by unfold smpAddress; omega)]

/-! The command. -/

/-- What DECOR is given: NBLK, and a block of samples in SMP[0] and SMP[1]. -/
structure StereoReady (xs ys : List Int) (s : State) : Prop where
  nblk : NblkReady s
  length0 : xs.length = nblkOf s
  length1 : ys.length = nblkOf s
  holds0 : holdsAt s.smp (smpAddress 0 0) xs = true
  holds1 : holdsAt s.smp (smpAddress 1 0) ys = true
  fits0 : ∀ v ∈ xs, FitsEntry v
  fits1 : ∀ v ∈ ys, FitsEntry v

theorem exec_decor {a bps : Byte} (hwf : (Instr.decor a bps).wellFormed = true) (s : State) :
    exec (.decor a bps) s =
      runCommand .decorrelator ((decorrelator a.toNat bps.toNat).andThen (Cmd.pure .ok)) s :=
  runCommand_operandCheck_of (of_decide_eq_true hwf) _ s

/-- For an independent assignment DECOR only checks NBLK (R241). -/
theorem decorrelator_of_independent {a : Nat} (bps : Nat) (hn : NblkReady s) (ha : a ≤ 7) :
    decorrelator a bps s = .ok () s := by
  rw [decorrelator, bind_of_ok (checkedNblk_of_ready hn), if_pos ha]; rfl

/-- For a stereo assignment over a block that holds values DECOR checks all pairs, then writes them (R240). -/
theorem decorrelator_of_ready {a bps : Nat} (h8 : 8 ≤ a) (h10 : a ≤ 10) (hs : StereoReady xs ys s) :
    decorrelator a bps s =
      ((Cmd.require (PairsFit (List.zipWith (leftRight a) xs ys) bps) .malformedStream).andThen
        (writePairs (List.zipWith (leftRight a) xs ys) 0)) s := by
  have pairs := decorrelatedPairs_of_holds (bps := bps) h8 h10 (hs.length0.trans hs.length1.symm) hs.holds0 hs.holds1
    hs.fits0 hs.fits1
  rw [hs.length0] at pairs
  rw [decorrelator, bind_of_ok (checkedNblk_of_ready hs.nblk), if_neg (by omega)]
  by_cases hp : PairsFit (List.zipWith (leftRight a) xs ys) bps
  · rw [require_of hp] at pairs ⊢
    exact bind_of_ok pairs
  · rw [require_of_not hp] at pairs ⊢
    exact bind_of_raised pairs

/-! Mid and side (R244). -/

/-- The bit that mid loses is the low bit of side. -/
theorem leftRight_midSide (l r : Int) : leftRight 10 ((l + r) >>> (1 : Nat)) (l - r) = (l, r) := by
  have mid : (l + r) >>> (1 : Nat) = (l + r) / 2 := Int.shiftRight_eq_div_pow _ _
  have stereo : ∀ m d : Int, leftRight 10 m d = (m - d / 2 + d, m - d / 2) := fun _ _ => rfl
  rw [stereo, mid, Prod.mk.injEq]
  omega

theorem zipWith_leftRight_midSide : ∀ ls rs : List Int,
    List.zipWith (leftRight 10) (List.zipWith (fun l r : Int => (l + r) >>> (1 : Nat)) ls rs)
      (List.zipWith (fun l r : Int => l - r) ls rs) = ls.zip rs
  | [], _ => rfl
  | _ :: _, [] => rfl
  | l :: ls, r :: rs => by
    rw [List.zipWith_cons_cons, List.zipWith_cons_cons, List.zipWith_cons_cons, leftRight_midSide,
      zipWith_leftRight_midSide ls rs, List.zip_cons_cons]

/-- Mid and side of samples of a depth take at most one bit more. -/
theorem fitsEntry_midSide {l r : Int} {bps : Nat} (hbps : bps ≤ 32) (hl : InRange l bps) (hr : InRange r bps) :
    FitsEntry ((l + r) >>> (1 : Nat)) ∧ FitsEntry (l - r) := by
  have mid : (l + r) >>> (1 : Nat) = (l + r) / 2 := Int.shiftRight_eq_div_pow _ _
  have hl := inRange_mono hl hbps
  have hr := inRange_mono hr hbps
  rw [mid]
  unfold FitsEntry InRange at *
  omega

/-- What holds of f of two members holds of every member of a zipped list. -/
theorem forall_mem_zipWith {α β γ : Type} {f : α → β → γ} {P : γ → Prop} {as : List α} {bs : List β}
    (h : ∀ a ∈ as, ∀ b ∈ bs, P (f a b)) : ∀ c ∈ List.zipWith f as bs, P c := by
  intro c hc
  rw [← List.map_uncurry_zip_eq_zipWith] at hc
  obtain ⟨⟨a, b⟩, hab, rfl⟩ := List.mem_map.mp hc
  exact h a (List.of_mem_zip hab).1 b (List.of_mem_zip hab).2

/-! What DECOR writes. -/

/-- What DECOR may touch where NBLK is nblk: SMP[0][0..NBLK-1] and SMP[1][0..NBLK-1] (R240). -/
def decorFootprint (nblk : Nat) : Footprint :=
  ⟨fun n => n = nblk, fun _ => False, fun x => ¬ OutsideBlock 0 nblk x ∨ ¬ OutsideBlock 1 nblk x, fun _ => False⟩

theorem not_outsideBlock (c nblk x : Nat) :
    ¬ OutsideBlock c nblk x ↔ smpAddress c 0 ≤ x ∧ x < smpAddress c 0 + nblk := by
  rw [OutsideBlock, smpAddress_eq_add c nblk]; omega

theorem decorFootprint_smp {nblk i : Nat} (h : i < nblk) :
    (decorFootprint nblk).smp (smpAddress 0 i) ∧ (decorFootprint nblk).smp (smpAddress 1 i) := by
  refine ⟨.inl ((not_outsideBlock _ _ _).mpr ?_), .inr ((not_outsideBlock _ _ _).mpr ?_)⟩ <;>
    (rw [smpAddress_eq_add _ i]; omega)

theorem decorrelator_staysInBlocks (a bps nblk : Nat) : Stays (decorFootprint nblk) (decorrelator a bps) :=
  decorrelator_stays bps fun _ _ hn _ _ hi => decorFootprint_smp (hn ▸ hi)

theorem undefine_decorrelator_outputsWithin (nblk : Nat) (u : State) (hu : nblkOf u = nblk) :
    OutputsWithin (decorFootprint nblk) u (undefine .decorrelator u) := by
  subst hu
  refine ⟨.refl _, .trans (n := cellErase u.smp (smpAddress 0 0) (nblkOf u)) ?_ ?_, .refl _, .refl _⟩
  · exact .cellErase fun x h1 h2 => .inl ((not_outsideBlock _ _ _).mpr ⟨h1, h2⟩)
  · exact .cellErase fun x h1 h2 => .inr ((not_outsideBlock _ _ _).mpr ⟨h1, h2⟩)

/-- R303 leaves no value in the footprint of DECOR. -/
theorem undefine_decorrelator_erases {x : Nat} (u : State) (hx : (decorFootprint (nblkOf u)).smp x) :
    cellGet (undefine .decorrelator u).smp x = none := by
  have erased : cellGet (undefine .decorrelator u).smp x =
      cellGet (cellErase (cellErase u.smp (smpAddress 0 0) (nblkOf u)) (smpAddress 1 0) (nblkOf u)) x := rfl
  rw [erased, cellGet_cellErase, cellGet_cellErase]
  obtain h0 | h1 := hx
  · rw [if_pos ((not_outsideBlock _ _ _).mp h0), ite_self]
  · rw [if_pos ((not_outsideBlock _ _ _).mp h1)]

end Sys2Proof.Machine

open Sys2Proof Sys2Proof.Machine

/-- Settles O38: every pair passes the check, and the second loop writes them all. -/
theorem decorReconstructsPairs : Obligations.DecorReconstructsPairs := by
  intro a bps xs ys s hwf hn h8 hlx hly hx hy hfx hfy hfit
  obtain ⟨h10, -⟩ := of_decide_eq_true hwf
  have ready : StereoReady xs ys (beginCommand s) := ⟨hn, hlx, hly, hx, hy, hfx, hfy⟩
  set pairs := List.zipWith (leftRight a.toNat) xs ys with hpairs
  have count : pairs.length = nblkOf s := by rw [hpairs, List.length_zipWith, hlx, hly, Nat.min_self]
  obtain ⟨u, run, written⟩ := writePairs_written (pairs := pairs) (i := 0) (beginCommand s) (by omega)
  have body : decorrelator a.toNat bps.toNat (beginCommand s) = .ok () u := by
    rw [decorrelator_of_ready h8 h10 ready, require_of hfit, pure_andThen, run]
  have outside := written.outside
  rw [Nat.zero_add, count] at outside
  refine ⟨endCommand .ok u, ?_, ?_, written.left, written.right, outside⟩
  · rw [exec_decor hwf]; exact runCommand_of_ok (andThen_of_ok body)
  · rw [written.only]; rfl

/-- Settles O39: mid and side of a pair are a block that DECOR 10 turns into that pair. -/
theorem midSideExactRecovery : Obligations.MidSideExactRecovery := by
  intro bps ls rs s h1 h32 hn hll hlr hl hr hmid hside
  have hwf : (Instr.decor 10 bps).wellFormed = true := decide_eq_true ⟨by decide, h1, h32⟩
  have count (f : Int → Int → Int) : (List.zipWith f ls rs).length = nblkOf s := by
    rw [List.length_zipWith, hll, hlr, Nat.min_self]
  have fits : ∀ l ∈ ls, ∀ r ∈ rs, FitsEntry ((l + r) >>> (1 : Nat)) ∧ FitsEntry (l - r) := fun l hml r hmr =>
    fitsEntry_midSide h32 (hl l hml) (hr r hmr)
  have inside : PairsFit (ls.zip rs) bps.toNat := fun p hp => ⟨hl _ (List.of_mem_zip hp).1, hr _ (List.of_mem_zip hp).2⟩
  have pairs : List.zipWith (leftRight (10 : Byte).toNat) _ _ = ls.zip rs := zipWith_leftRight_midSide ls rs
  rw [← pairs] at inside
  obtain ⟨t, run, only, left, right, -⟩ := decorReconstructsPairs 10 bps _ _ s hwf hn (by decide) (count _) (count _)
    hmid hside (forall_mem_zipWith fun l hml r hmr => (fits l hml r hmr).1)
    (forall_mem_zipWith fun l hml r hmr => (fits l hml r hmr).2) inside
  refine ⟨t, run, by rw [only], ?_, ?_⟩
  · rwa [pairs, List.map_fst_zip (hll.trans hlr.symm).le] at left
  · rwa [pairs, List.map_snd_zip (hll.trans hlr.symm).ge] at right

/-- Settles O41: the body and R303 write only the blocks of SMP[0] and SMP[1]. -/
theorem decorFrame : Obligations.DecorFrame := by
  intro a bps s t h
  have outputs := runCommand_outputsWithin (.andThen (.require _ rfl) fun _ =>
    .andThen (decorrelator_staysInBlocks a.toNat bps.toNat (nblkOf s)) fun _ => .pure trivial) rfl
    (undefine_decorrelator_outputsWithin (nblkOf s)) h
  refine ⟨?_, fun x h0 h1 => outputs.smp.get x (by rintro (h | h); exacts [h h0, h h1])⟩
  have keeps : Keeps SamplesOnly ((operandCheck (a.toNat ≤ 10 ∧ 1 ≤ bps.toNat ∧ bps.toNat ≤ 32)).andThen
      ((decorrelator a.toNat bps.toNat).andThen (Cmd.pure Code.ok))) :=
    .andThen samplesOnly_closed (.require samplesOnly_closed _ _) <|
    .andThen samplesOnly_closed (decorrelator_keeps _ _) (.pure samplesOnly_closed _)
  obtain ⟨c, u, hu, rfl | rfl | rfl⟩ := runCommand_ends keeps SamplesOnly.snapOf h <;> (rw [hu]; rfl)

/-- Settles O40: the check fails before anything is written, and R303 erases both blocks. -/
theorem decorOutsideDepthIsMalformed : Obligations.DecorOutsideDepthIsMalformed := by
  intro a bps xs ys s hwf hn h8 hlx hly hx hy hfx hfy ⟨p, hp, hout⟩
  obtain ⟨h10, -⟩ := of_decide_eq_true hwf
  have ready : StereoReady xs ys (beginCommand s) := ⟨hn, hlx, hly, hx, hy, hfx, hfy⟩
  have bad : ¬ PairsFit (List.zipWith (leftRight a.toNat) xs ys) bps.toNat := fun h => hout (h p hp)
  have body : decorrelator a.toNat bps.toNat (beginCommand s) = .raised .malformedStream (beginCommand s) := by
    rw [decorrelator_of_ready h8 h10 ready, require_of_not bad]; rfl
  have run : exec (.decor a bps) s = .next (undefine .decorrelator (failed .malformedStream s)) :=
    (exec_decor hwf s).trans (runCommand_of_raised (andThen_of_raised body))
  exact ⟨_, run, rfl, fun i hi => ⟨undefine_decorrelator_erases _ (decorFootprint_smp hi).1,
    undefine_decorrelator_erases _ (decorFootprint_smp hi).2⟩, (decorFrame a bps s _ run).2⟩

/-- Settles O37: DECOR ends before its loops. -/
theorem decorIndependentKeepsChannels : Obligations.DecorIndependentKeepsChannels := by
  intro a bps s hwf hn ha
  have body := decorrelator_of_independent (s := beginCommand s) bps.toNat hn ha
  have run := runCommand_of_ok (k := .decorrelator) (andThen_of_ok (k := Cmd.pure Code.ok) body)
  exact (exec_decor hwf s).trans run

end

section
/-! SUPPORT. Where a command can end with IllegalCommand (30_encoding.md R101, R104): only in the checks it makes before it
writes anything. A part behind those checks never raises that code, its check of NBLK being made again inside SUBF and FRAME
over an NBLK that has already passed it. -/

namespace Sys2Proof.Machine

variable {α β : Type}

/-! Parts that never raise IllegalCommand. -/

/-- From a state whose FH registers satisfy P, m never raises IllegalCommand, and it leaves FH as it was. -/
def NeverIllegal (P : FrameHeader → Prop) (m : Cmd α) : Prop :=
  ∀ s, P s.fh → match m s with
    | .ok _ t => t.fh = s.fh
    | .raised c _ => c ≠ .illegalCommand
    | .faulted _ => True

/-- NBLK is in range (R42). -/
def NblkLegal (h : FrameHeader) : Prop := 1 ≤ h.blockSize.toNat ∧ h.blockSize.toNat ≤ 65535

namespace NeverIllegal

variable {P : FrameHeader → Prop} {m : Cmd α} {k : α → Cmd β}

theorem not_raised (h : NeverIllegal P m) {s u : State} (hs : P s.fh) : m s ≠ .raised .illegalCommand u := fun e => by
  have := h s hs
  rw [e] at this
  exact this rfl

theorem pure (a : α) : NeverIllegal P (Cmd.pure a) := fun _ _ => rfl

theorem raise {c : Code} (h : c ≠ .illegalCommand) : NeverIllegal P (Cmd.raise c : Cmd α) := fun _ _ => h

theorem read (g : State → α) : NeverIllegal P (Cmd.read g) := fun _ _ => rfl

theorem update {g : State → State} (h : ∀ s, (g s).fh = s.fh) : NeverIllegal P (Cmd.update g) := fun s _ => h s

theorem bind (hm : NeverIllegal P m) (hk : ∀ a, NeverIllegal P (k a)) : NeverIllegal P (m.bind k) := by
  intro s hs
  have first := hm s hs
  cases e : m s with
  | ok a t =>
    rw [e] at first
    have rest := hk a t (by rwa [first])
    rw [bind_of_ok e]
    cases e' : k a t with
    | ok b u => rw [e'] at rest; exact rest.trans first
    | raised c u => rwa [e'] at rest
    | faulted _ => trivial
  | raised c t => rw [e] at first; rwa [bind_of_raised e]
  | faulted _ => rw [bind_of_faulted e]; trivial

theorem andThen {k : Cmd β} (hm : NeverIllegal P m) (hk : NeverIllegal P k) : NeverIllegal P (m.andThen k) :=
  bind hm fun _ => hk

theorem require {p : Prop} [Decidable p] {c : Code} (h : c ≠ .illegalCommand) :
    NeverIllegal P (Cmd.require p c) := by
  unfold Cmd.require; split
  exacts [pure (), raise h]

theorem ite {p : Prop} [Decidable p] {m' : Cmd α} (hm : NeverIllegal P m) (hm' : NeverIllegal P m') :
    NeverIllegal P (if p then m else m') := by
  split
  exacts [hm, hm']

theorem forRange {body : Nat → Cmd Unit} {count first : Nat} (h : ∀ i, NeverIllegal P (body i)) :
    NeverIllegal P (Cmd.forRange body count first) := by
  induction count generalizing first with
  | zero => exact pure ()
  | succ n ih => exact andThen (h first) ih

end NeverIllegal

section Parts

variable {P : FrameHeader → Prop}

theorem peekBits_neverIllegal (n p v : Nat) : NeverIllegal P (peekBits n p v) := by
  intro s _
  obtain ⟨r, -, e⟩ | ⟨d, e⟩ := peekBits_cases s n p v
  · rw [e]
  · rw [e]; trivial

theorem scanUnary_neverIllegal (left q : Nat) : NeverIllegal P (scanUnary left q) := by
  intro s _
  obtain ⟨r, -, e⟩ | e | ⟨d, e⟩ := scanUnary_cases s left q
  · rw [e]
  · rw [e]; nofun
  · rw [e]; trivial

theorem advance_neverIllegal (n : Nat) : NeverIllegal P (advance n) := by
  intro s _
  obtain ⟨t, e, -⟩ | ⟨d, e⟩ := advance_cases n s
  · rw [e]; dsimp only; rw [(advance_keeps n).of_ok e]
  · rw [e]; trivial

theorem readBits_neverIllegal (n : Nat) : NeverIllegal P (readBits n) := by
  intro s hs
  unfold readBits
  split_ifs
  · nofun
  · exact (peekBits_neverIllegal _ _ _).bind (fun _ => (advance_neverIllegal n).andThen (.pure _)) s hs

theorem readSigned_neverIllegal (n : Nat) : NeverIllegal P (readSigned n) :=
  .ite (.pure _) (.bind (readBits_neverIllegal n) fun _ => .pure _)

theorem readUnary_neverIllegal : NeverIllegal P readUnary := fun s hs =>
  (scanUnary_neverIllegal (bitsLeft s) 0).bind (fun q => (advance_neverIllegal (q + 1)).andThen (.pure q)) s hs

theorem readRice_neverIllegal (k : Nat) : NeverIllegal P (readRice k) :=
  .bind readUnary_neverIllegal fun _ => .andThen (.require nofun) <|
  .bind (readBits_neverIllegal k) fun _ => .pure _

theorem byteAlign_neverIllegal : NeverIllegal P byteAlign := fun s => advance_neverIllegal _ s

theorem useRegister_neverIllegal (n : Nat) : NeverIllegal P (useRegister n) := by
  intro s _
  unfold useRegister
  cases s.undef.getLsbD n <;> cases s.spoiled.getLsbD n
  exacts [rfl, rfl, rfl, trivial]

/-- NBLK passes its check where it is in range (R42). -/
theorem checkedNblk_neverIllegal : NeverIllegal NblkLegal checkedNblk := by
  have rest : NeverIllegal NblkLegal ((Cmd.read nblkOf).bind fun n =>
      (Cmd.require (1 ≤ n ∧ n ≤ 65535) .illegalCommand).andThen (Cmd.pure n)) := by
    intro s hs
    rw [read_bind, require_of (by exact hs)]
    rfl
  exact .andThen (useRegister_neverIllegal _) rest

theorem readQlp_neverIllegal (j : Nat) : NeverIllegal P (readQlp j) := .andThen (useRegister_neverIllegal _) (.read _)

theorem readShift_neverIllegal : NeverIllegal P readShift := .andThen (useRegister_neverIllegal _) (.read _)

theorem readRes_neverIllegal (i : Nat) : NeverIllegal P (readRes i) := by
  intro s _; unfold readRes; cases cellGet s.res i
  exacts [trivial, rfl]

theorem readSmp_neverIllegal (c i : Nat) : NeverIllegal P (readSmp c i) := by
  intro s _; unfold readSmp; cases cellGet s.smp (smpAddress c i)
  exacts [trivial, rfl]

theorem writeRes_neverIllegal (i : Nat) (v : Int) : NeverIllegal P (writeRes i v) := .update fun _ => rfl

theorem writeSmp_neverIllegal (c i : Nat) (v : Int) : NeverIllegal P (writeSmp c i v) := .update fun _ => rfl

theorem weightedHistory_neverIllegal {coefficient : Nat → Cmd Int} (h : ∀ j, NeverIllegal P (coefficient j)) (c i : Nat) :
    ∀ count j acc, NeverIllegal P (weightedHistory coefficient c i count j acc)
  | 0, _, _ => .pure _
  | n + 1, j, _ =>
    .bind (h j) fun _ => .bind (readSmp_neverIllegal _ _) fun _ => weightedHistory_neverIllegal h c i n (j + 1) _

theorem reconstruct_neverIllegal {prediction : Nat → Cmd Int} (h : ∀ i, NeverIllegal P (prediction i))
    (order nblk c w : Nat) : NeverIllegal P (reconstruct prediction order nblk c w) :=
  .forRange fun i => .bind (readRes_neverIllegal _) fun _ => .bind (h i) fun _ => .andThen (.require nofun) <|
    writeSmp_neverIllegal _ _ _

theorem fixedRecon_neverIllegal (order nblk c w : Nat) : NeverIllegal P (fixedRecon order nblk c w) :=
  reconstruct_neverIllegal (fun _ => weightedHistory_neverIllegal (fun _ => .pure _) _ _ _ _ _) _ _ _ _

theorem lpcRecon_neverIllegal (order shift nblk c w : Nat) : NeverIllegal P (lpcRecon order shift nblk c w) :=
  reconstruct_neverIllegal (fun _ => .bind (weightedHistory_neverIllegal readQlp_neverIllegal _ _ _ _ _) fun _ =>
    .pure _) _ _ _ _

theorem readPartition_neverIllegal (pbits esc count idx : Nat) : NeverIllegal P (readPartition pbits esc count idx) :=
  .bind (readBits_neverIllegal _) fun _ => .ite
    (.bind (readBits_neverIllegal _) fun _ =>
      .forRange fun _ => .bind (readSigned_neverIllegal _) fun _ => writeRes_neverIllegal _ _)
    (.forRange fun _ => .bind (readRice_neverIllegal _) fun _ => writeRes_neverIllegal _ _)

theorem readPartitions_neverIllegal (pbits esc psize order : Nat) :
    ∀ parts p idx, NeverIllegal P (readPartitions pbits esc psize order parts p idx)
  | 0, _, _ => .pure _
  | n + 1, _, _ =>
    .andThen (readPartition_neverIllegal _ _ _ _) (readPartitions_neverIllegal pbits esc psize order n _ _)

theorem sectionBehindNblk_neverIllegal (nblk order : Nat) : NeverIllegal P (sectionBehindNblk nblk order) :=
  .bind (readBits_neverIllegal _) fun _ => .andThen (.require nofun) <|
  .bind (readBits_neverIllegal _) fun _ => .andThen (.require nofun) <| .andThen (.require nofun) <|
  readPartitions_neverIllegal _ _ _ _ _ _ _

theorem residualSection_eq (order : Nat) :
    residualSection order = checkedNblk.bind fun nblk => sectionBehindNblk nblk order := rfl

theorem residualSection_neverIllegal (order : Nat) : NeverIllegal NblkLegal (residualSection order) := by
  rw [residualSection_eq]
  exact .bind checkedNblk_neverIllegal fun _ => sectionBehindNblk_neverIllegal _ _

theorem readSamples_neverIllegal (c ebps count : Nat) : NeverIllegal P (readSamples c ebps count) :=
  .forRange fun _ => .bind (readSigned_neverIllegal _) fun _ => writeSmp_neverIllegal _ _ _

theorem constantBody_neverIllegal (c ebps nblk : Nat) : NeverIllegal P (constantBody c ebps nblk) :=
  .bind (readSigned_neverIllegal _) fun _ => .forRange fun _ => writeSmp_neverIllegal _ _ _

theorem fixedBody_neverIllegal (order c ebps nblk : Nat) : NeverIllegal NblkLegal (fixedBody order c ebps nblk) :=
  .andThen (readSamples_neverIllegal _ _ _) <| .andThen (residualSection_neverIllegal _) <|
  fixedRecon_neverIllegal _ _ _ _

theorem lpcBody_neverIllegal (order c ebps nblk : Nat) : NeverIllegal NblkLegal (lpcBody order c ebps nblk) :=
  .andThen (readSamples_neverIllegal _ _ _) <| .bind (readBits_neverIllegal _) fun _ => .andThen (.require nofun) <|
  .andThen (.update fun _ => rfl) <| .bind (readSigned_neverIllegal _) fun _ => .andThen (.update fun _ => rfl) <|
  .andThen (.require nofun) <|
  .andThen (.forRange fun _ => .bind (readSigned_neverIllegal _) fun _ => .update fun _ => rfl) <|
  .andThen (residualSection_neverIllegal _) <| lpcRecon_neverIllegal _ _ _ _ _

theorem shiftSamples_neverIllegal (c wasted nblk : Nat) : NeverIllegal P (shiftSamples c wasted nblk) :=
  .forRange fun _ => .bind (readSmp_neverIllegal _ _) fun _ => writeSmp_neverIllegal _ _ _

theorem readWasted_neverIllegal (flag : Bool) : NeverIllegal P (readWasted flag) :=
  .ite (.bind readUnary_neverIllegal fun _ => .pure _) (.pure _)

theorem lpcOrderCheck_neverIllegal (order : Nat) : NeverIllegal P (lpcOrderCheck order) :=
  .bind (.read _) fun _ => .require nofun

/-- What a kind of subframe checks and reads never raises IllegalCommand over an NBLK in range. -/
structure SubframeKind.NeverIllegal (k : SubframeKind) : Prop where
  check : Machine.NeverIllegal NblkLegal k.check
  body : ∀ c ebps nblk, Machine.NeverIllegal NblkLegal (k.body c ebps nblk)

theorem classify_neverIllegal {t : Nat} {k : SubframeKind} (h : classify t = some k) : k.NeverIllegal := by
  unfold classify at h
  split_ifs at h <;> cases h
  · exact ⟨.pure _, constantBody_neverIllegal⟩
  · exact ⟨.pure _, readSamples_neverIllegal⟩
  · exact ⟨.pure _, fixedBody_neverIllegal _⟩
  · exact ⟨lpcOrderCheck_neverIllegal _, lpcBody_neverIllegal _⟩

theorem subframeRest_neverIllegal (c bps nblk t order : Nat) (flag : Bool) {body : Nat → Cmd Unit}
    (h : ∀ ebps, NeverIllegal P (body ebps)) : NeverIllegal P (subframeRest c bps nblk t order flag body) :=
  .bind (readWasted_neverIllegal _) fun _ => .andThen (.require nofun) <| .andThen (.require nofun) <|
  .andThen (.update fun _ => rfl) <| .andThen (h _) <| .ite (shiftSamples_neverIllegal _ _ _) (.pure _)

/-- Behind its checks SUBF never ends with IllegalCommand. -/
theorem behindChecks_neverIllegal (c bps nblk : Nat) : NeverIllegal NblkLegal (behindChecks c bps nblk) :=
  .bind (readBits_neverIllegal _) fun _ => .andThen (.require nofun) <| .bind (readBits_neverIllegal _) fun t => by
    cases h : classify t with
    | none => rw [behindTypeCode_of_none h]; exact .raise nofun
    | some k =>
      rw [behindTypeCode_of_some h]
      have hk := classify_neverIllegal h
      exact .andThen hk.check <| .bind (readBits_neverIllegal _) fun _ =>
        subframeRest_neverIllegal _ _ _ _ _ _ fun _ => hk.body _ _ _

theorem subframeChecks_neverIllegal (bps : Nat) : NeverIllegal NblkLegal (subframeChecks bps) :=
  .bind checkedNblk_neverIllegal fun _ => .bind (.read _) fun _ => .andThen (.require nofun) (.pure _)

theorem subframe_neverIllegal (c bps : Nat) : NeverIllegal NblkLegal (subframe c bps) := by
  rw [subframe_eq]
  exact .bind (subframeChecks_neverIllegal _) fun _ => behindChecks_neverIllegal _ _ _

theorem decorrelatedPairs_neverIllegal (a bps : Nat) : ∀ count i, NeverIllegal P (decorrelatedPairs a bps count i)
  | 0, _ => .pure _
  | n + 1, i =>
    .bind (readSmp_neverIllegal _ _) fun _ => .bind (readSmp_neverIllegal _ _) fun _ => .andThen (.require nofun) <|
    .bind (decorrelatedPairs_neverIllegal a bps n (i + 1)) fun _ => .pure _

theorem writePairs_neverIllegal : ∀ pairs i, NeverIllegal P (writePairs pairs i)
  | [], _ => .pure _
  | _ :: rest, i =>
    .andThen (writeSmp_neverIllegal _ _ _) <| .andThen (writeSmp_neverIllegal _ _ _) (writePairs_neverIllegal rest (i + 1))

/-- DECOR behind its check of NBLK (R240). -/
def pairsBehindNblk (a bps nblk : Nat) : Cmd Unit :=
  if a ≤ 7 then Cmd.pure () else (decorrelatedPairs a bps nblk 0).bind fun pairs => writePairs pairs 0

theorem decorrelator_eq (a bps : Nat) :
    decorrelator a bps = checkedNblk.bind fun nblk => pairsBehindNblk a bps nblk := rfl

theorem pairsBehindNblk_neverIllegal (a bps nblk : Nat) : NeverIllegal P (pairsBehindNblk a bps nblk) :=
  .ite (.pure _) (.bind (decorrelatedPairs_neverIllegal _ _ _ _) fun _ => writePairs_neverIllegal _ _)

theorem decorrelator_neverIllegal (a bps : Nat) : NeverIllegal NblkLegal (decorrelator a bps) := by
  rw [decorrelator_eq]
  exact .bind checkedNblk_neverIllegal fun _ => pairsBehindNblk_neverIllegal _ _ _

theorem frameFooter_neverIllegal : NeverIllegal P frameFooter :=
  .andThen byteAlign_neverIllegal <| .bind (.read _) fun _ => .bind (readBits_neverIllegal _) fun _ =>
  .ite (.andThen (.update fun _ => rfl) (.pure _)) (.andThen (.update fun _ => rfl) (.pure _))

/-- Behind its header FRAME never ends with IllegalCommand. -/
theorem frameRest_neverIllegal (h : FrameHeader) : NeverIllegal NblkLegal (frameRest h) :=
  .andThen (.forRange fun _ => subframe_neverIllegal _ _) <|
  .bind frameFooter_neverIllegal fun _ =>
  .andThen (decorrelator_neverIllegal _ _) (.pure _)

end Parts

end Sys2Proof.Machine
end

section
/-! SUPPORT. The frame header as FHDR and FRAME read it (46_frame.md R260 to R268): nothing but the cursor and the CRCs is
written until its last step, which cannot fail, and the NBLK it writes is in range. -/

namespace Sys2Proof.Machine

variable {α β : Type}

/-- What a command that writes no output may touch: no entry of RES or SMP, and no mark. -/
def readingFootprint : Footprint := ⟨fun _ => True, fun _ => False, fun _ => False, fun _ => False⟩

/-- m only reads until a last step that cannot fail: where it raises, no entry and no mark has changed, and where it ends
well, the state satisfies Q. -/
def ReadsThen (Q : State → Prop) (m : Cmd α) : Prop :=
  ∀ s, match m s with
    | .ok _ t => Q t
    | .raised _ t => Inside readingFootprint s t
    | .faulted _ => True

namespace ReadsThen

variable {Q : State → Prop} {m : Cmd α} {k : α → Cmd β}

theorem of_ok (h : ReadsThen Q m) {s t : State} {a : α} (e : m s = .ok a t) : Q t := by
  have := h s; rwa [e] at this

theorem of_raised (h : ReadsThen Q m) {s t : State} {c : Code} (e : m s = .raised c t) :
    Inside readingFootprint s t := by
  have := h s; rwa [e] at this

theorem update {g : State → State} (h : ∀ s, Q (g s)) : ReadsThen Q (Cmd.update g) := h

theorem bind {Q' : α → Prop} (hm : Ensures readingFootprint (fun a _ => Q' a) m) (hk : ∀ a, Q' a → ReadsThen Q (k a)) :
    ReadsThen Q (m.bind k) := by
  intro s
  cases e : m s with
  | ok a t =>
    obtain ⟨ha, first⟩ := hm.of_ok trivial e
    have rest := hk a ha t
    rw [bind_of_ok e]
    cases e' : k a t with
    | ok b u => rwa [e'] at rest
    | raised c u => rw [e'] at rest; exact first.trans rest
    | faulted _ => trivial
  | raised c t => rw [bind_of_raised e]; exact (hm.of_raised trivial e).2
  | faulted _ => rw [bind_of_faulted e]; trivial

theorem andThen {p : Prop} {k : Cmd β} (hm : Ensures readingFootprint (fun _ _ => p) m) (hk : p → ReadsThen Q k) :
    ReadsThen Q (m.andThen k) :=
  bind hm fun _ => hk

end ReadsThen

/-- Every block size code but the reserved 0 stands for a block size in range (R122, R263). -/
theorem blockSize_ensures {f : Footprint} {code : Nat} (h0 : code ≠ 0) (h : code < 16) :
    Ensures f (fun n _ => 1 ≤ n ∧ n ≤ 65535) (blockSize code) :=
  .ite (fun _ => .pure (by omega)) fun h1 =>
  .ite (fun h5 => .pure (by interval_cases code <;> omega)) fun h5 =>
  .ite (fun _ => .bind (readBits_ensures 8) fun e he => .pure (by omega)) fun h6 =>
  .ite (fun _ => .bind (readBits_ensures 16) fun e _ => .andThen (.require _ rfl) fun he => .pure (by omega)) fun h7 =>
  .pure (by interval_cases code <;> omega)

theorem frameHeader_readsThen : ReadsThen (fun t => NblkLegal t.fh) frameHeader :=
  .bind (.read _) fun _ _ => .andThen (.require _ rfl) fun _ =>
  .bind (.read _) fun _ _ => .andThen (.require _ rfl) fun _ => .andThen (setCrcs_stays _ _) fun _ =>
  .bind (readBits_ensures _) fun _ _ => .bind (.read _) fun scan _ =>
  .andThen (.require _ (by cases scan <;> rfl)) fun _ =>
  .bind (readBits_ensures _) fun _ _ => .andThen (.require _ rfl) fun _ =>
  .bind (readBits_ensures _) fun _ _ =>
  .bind (readBits_ensures _) fun _ hlt => .andThen (.require _ rfl) fun hbsc =>
  .bind (readBits_ensures _) fun _ _ => .andThen (.require _ rfl) fun _ =>
  .bind (readBits_ensures _) fun _ _ => .andThen (.require _ rfl) fun _ =>
  .bind (readBits_ensures _) fun _ _ => .andThen (.require _ rfl) fun _ =>
  .bind (readBits_ensures _) fun _ _ => .andThen (.require _ rfl) fun _ =>
  .bind readNumber_stays fun _ _ => .bind (blockSize_ensures hbsc hlt) fun nblk hn =>
  .bind (sampleRate_stays _) fun _ _ =>
  .bind (.read _) fun _ _ => .bind (readBits_ensures _) fun _ _ => .andThen (.require _ rfl) fun _ =>
  .bind (sampleSize_stays _) fun _ _ => .bind readSiChannels_stays fun _ _ => .bind readSiBps_stays fun _ _ =>
  .andThen (.require _ rfl) fun _ => .bind readSiMaxBlock_stays fun _ _ => .andThen (.require _ rfl) fun _ =>
  .bind (.read _) fun _ _ => .andThen (.require _ rfl) fun _ =>
  .andThen (.update fun s hs => ⟨trivial, by
    split
    exacts [.refl hs, ((setCrcs_stays State.crc8 fun _ => 0).of_ok hs rfl).2]⟩) fun _ =>
  .update fun _ => by
    show NblkLegal { blockSize := BitVec.ofNat 17 nblk, .. }
    have fits : nblk % 2 ^ 17 = nblk := Nat.mod_eq_of_lt (by omega)
    rw [NblkLegal, BitVec.toNat_ofNat, fits]
    exact hn

end Sys2Proof.Machine
end

section
/-! SUPPORT. How every command can end (60_exceptions.md R302 to R304): with OK, or with IntegrityError for FFTR and FRAME;
with IllegalCommand and its outputs untouched; or with another fatal code and what R303 makes UNDEF. -/

namespace Sys2Proof.Machine

variable {α β : Type} {s t : State} {k : CommandKind} {footer : Prop} {body : Cmd Code} {i : Instr}

/-! Refusals that leave the outputs alone. -/

/-- RES, SMP, the marks of both sorts and STATUS.VALID are kept. -/
structure OutputsKept (s t : State) : Prop where
  res : t.res = s.res
  smp : t.smp = s.smp
  undef : t.undef = s.undef
  spoiled : t.spoiled = s.spoiled
  valid : t.valid = s.valid

theorem OutputsKept.refl (s : State) : OutputsKept s s := ⟨rfl, rfl, rfl, rfl, rfl⟩

theorem OutputsKept.trans {u : State} (h : OutputsKept s t) (h' : OutputsKept t u) : OutputsKept s u :=
  ⟨h'.res.trans h.res, h'.smp.trans h.smp, h'.undef.trans h.undef, h'.spoiled.trans h.spoiled, h'.valid.trans h.valid⟩

theorem NoteOnly.outputsKept (h : NoteOnly s t) : OutputsKept s t := by rw [h]; exact ⟨rfl, rfl, rfl, rfl, rfl⟩

theorem ResultOnly.outputsKept (h : ResultOnly s t) : OutputsKept s t := by rw [h]; exact ⟨rfl, rfl, rfl, rfl, rfl⟩

/-- Where m raises IllegalCommand it has kept the outputs. -/
def IllegalKeeps (m : Cmd α) : Prop := ∀ ⦃s t : State⦄, m s = .raised .illegalCommand t → OutputsKept s t

namespace IllegalKeeps

variable {P : FrameHeader → Prop} {m : Cmd α} {k : α → Cmd β}

theorem of_keeps {R : State → State → Prop} (h : Keeps R m) (hR : ∀ {s t}, R s t → OutputsKept s t) : IllegalKeeps m :=
  fun _ _ e => hR (h.of_raised e)

theorem of_neverIllegal (h : NeverIllegal (fun _ => True) m) : IllegalKeeps m := fun _ _ e =>
  absurd e (h.not_raised trivial)

/-- Behind a part whose good end establishes P, nothing need be known of a part that P keeps from IllegalCommand. -/
theorem bind (hm : IllegalKeeps m) (hP : Leads (fun _ => True) (fun t => P t.fh) m) (hk : ∀ a, NeverIllegal P (k a)) :
    IllegalKeeps (m.bind k) := by
  intro s t e
  obtain e | ⟨a, u, e, e'⟩ := bind_eq_raised.mp e
  · exact hm e
  · exact absurd e' ((hk a).not_raised (hP trivial e))

theorem andThen {k : Cmd β} (hm : IllegalKeeps m) (hP : Leads (fun _ => True) (fun t => P t.fh) m)
    (hk : NeverIllegal P k) : IllegalKeeps (m.andThen k) :=
  bind hm hP fun _ => hk

/-- The word check comes first (R101). -/
theorem operandCheck {p : Prop} [Decidable p] {k : Cmd α} (hk : p → IllegalKeeps k) :
    IllegalKeeps ((operandCheck p).andThen k) := by
  intro s t e
  obtain e | ⟨_, u, e, e'⟩ := andThen_eq_raised.mp e
  · obtain ⟨-, -, rfl⟩ := require_eq_raised.mp e
    exact .refl _
  · obtain ⟨hp, rfl⟩ := require_eq_ok.mp e
    exact hk hp e'

/-- Checks that only read, before a part that never raises IllegalCommand. -/
theorem of_reads {m : Cmd α} {k : α → Cmd β} (hm : Keeps NoteOnly m) (hk : ∀ a, NeverIllegal (fun _ => True) (k a)) :
    IllegalKeeps (m.bind k) :=
  bind (of_keeps hm NoteOnly.outputsKept) (fun _ _ _ _ _ => trivial) hk

end IllegalKeeps

theorem checkedNblk_leads : Leads (fun _ => True) (fun t => NblkLegal t.fh) checkedNblk := by
  intro s t n _ run
  obtain ⟨_, u, -, run⟩ := andThen_eq_ok.mp run
  rw [read_bind] at run
  obtain ⟨_, v, check, run⟩ := andThen_eq_ok.mp run
  obtain ⟨hn, rfl⟩ := require_eq_ok.mp check
  cases run
  exact hn

theorem subframeChecks_leads (bps : Nat) : Leads (fun _ => True) (fun t => NblkLegal t.fh) (subframeChecks bps) :=
  .bind checkedNblk_leads fun n => .bind (P' := fun t => NblkLegal t.fh) (fun _ _ _ h run => by cases run; exact h)
    fun _ => .require fun _ _ _ _ h run => by cases run; exact h

theorem residualSection_illegalKeeps (order : Nat) : IllegalKeeps (residualSection order) := by
  rw [residualSection_eq]
  exact .of_reads checkedNblk_keeps fun _ => sectionBehindNblk_neverIllegal _ _

theorem decorrelator_illegalKeeps (a bps : Nat) : IllegalKeeps (decorrelator a bps) := by
  rw [decorrelator_eq]
  exact .of_reads checkedNblk_keeps fun _ => pairsBehindNblk_neverIllegal _ _ _

theorem subframe_illegalKeeps (c bps : Nat) : IllegalKeeps (subframe c bps) := by
  rw [subframe_eq]
  exact .bind (.of_keeps (subframeChecks_keeps bps) NoteOnly.outputsKept) (subframeChecks_leads bps)
    fun _ => behindChecks_neverIllegal _ _ _

theorem subframeWithHeader_illegalKeeps {code : Nat} {kind : SubframeKind} (h : classify code = some kind) (c bps : Nat)
    (flag : Bool) : IllegalKeeps (subframeWithHeader c bps code kind flag) :=
  have hk := classify_neverIllegal h
  .bind (.of_keeps (subframeChecks_keeps bps) NoteOnly.outputsKept) (subframeChecks_leads bps) fun _ =>
  .andThen (readBits_neverIllegal _) <| .andThen (readBits_neverIllegal _) <| .andThen hk.check <|
  .andThen (readBits_neverIllegal _) <| subframeRest_neverIllegal _ _ _ _ _ _ fun _ => hk.body _ _ _

/-- Wherever FHDR's parts raise, they have kept the outputs and FH's marks (R268). -/
theorem frameHeader_raised {c : Code} (e : frameHeader s = .raised c t) : OutputsKept s t := by
  have only := frameHeader_keeps.of_raised e
  have marks := (frameHeader_readsThen.of_raised e).outputs.undef
  have undef : t.undef = s.undef := BitVec.eq_of_getLsbD_eq fun n _ => marks n id
  rw [only]
  exact ⟨rfl, rfl, undef, rfl, rfl⟩

theorem frameHeader_illegalKeeps : IllegalKeeps frameHeader := fun _ _ => frameHeader_raised

theorem frameBody_illegalKeeps : IllegalKeeps frameBody :=
  .andThen frameHeader_illegalKeeps (fun _ _ _ _ => frameHeader_readsThen.of_ok) <|
  .bind (.read _) frameRest_neverIllegal

/-! The commands. -/

/-- The body stays inside what the machine allows, raises fatal codes only, and gives OK, or with a footer IntegrityError. -/
abbrev GivesOk (footer : Prop) (body : Cmd Code) : Prop :=
  Ensures machineFootprint (fun c _ => c = .ok ∨ footer ∧ c = .integrityError) body

/-- How the body of a command can end: as `GivesOk` says, and with IllegalCommand only over outputs it has kept. -/
structure Disciplined (footer : Prop) (body : Cmd Code) : Prop where
  ends : GivesOk footer body
  illegal : IllegalKeeps body

theorem finishWith_givesOk (v : Word) : GivesOk footer (finishWith v) :=
  .andThen (.update fun _ hs => ⟨trivial, hs, rfl, ⟨.refl _, .refl _, .refl _, .refl _⟩, id⟩) fun _ =>
  .pure (.inl rfl)

namespace Disciplined

/-- The cursor commands write no output. -/
theorem of_cursor (he : GivesOk footer body) (hk : Keeps ResultOnly body) : Disciplined footer body :=
  ⟨he, .of_keeps hk ResultOnly.outputsKept⟩

/-- The shape of RDB, RDS and RDR. -/
theorem of_readInto {p : Prop} [Decidable p] {m : Cmd α} (hm : Stays machineFootprint m) (hk : Keeps CursorOnly m)
    (g : α → Word) : Disciplined footer ((operandCheck p).andThen (m.bind fun v => finishWith (g v))) :=
  .of_cursor (.andThen (.require _ rfl) fun _ => .bind hm fun _ _ => finishWith_givesOk _) (readInto_result_keeps hk g)

/-- The shape of GC8 and GC16. -/
theorem of_read (g : State → Word) : Disciplined footer ((Cmd.read g).bind finishWith) :=
  .of_cursor (.bind (.read _) fun _ _ => finishWith_givesOk _)
    (.bind resultOnly_closed (.read resultOnly_closed _) finishWith_keeps)

/-- An operation that ends with OK. -/
theorem of_operation {m : Cmd Unit} (hs : Stays machineFootprint m) (hi : IllegalKeeps m) :
    Disciplined footer (m.andThen (Cmd.pure .ok)) :=
  ⟨.andThen hs fun _ => .pure (.inl rfl), .andThen hi (fun _ _ _ _ _ => trivial) (.pure (P := fun _ => True) _)⟩

/-- The word check before a command. -/
theorem operandCheck {p : Prop} [Decidable p] (h : p → Disciplined footer body) :
    Disciplined footer ((operandCheck p).andThen body) :=
  ⟨.andThen (.require _ rfl) fun hp => (h hp).ends, .operandCheck fun hp => (h hp).illegal⟩

/-- A body with a footer, which gives no fatal code. -/
theorem of_footer (hf : footer) (he : EndsWell body) (hi : IllegalKeeps body) : Disciplined footer body := by
  refine ⟨he.weaken fun c _ hc => ?_, hi⟩
  cases c with
  | ok => exact .inl rfl
  | integrityError => exact .inr ⟨hf, rfl⟩
  | _ => cases hc

end Disciplined

/-- The instruction is a command of this row of R303's table. -/
def IsCommand (i : Instr) (k : CommandKind) : Prop :=
  ∃ body, (∀ s, exec i s = runCommand k body s) ∧ Disciplined (i = .fftr ∨ i = .frame) body

theorem isCommand_cursor (h : isCursorCommand i = true) : IsCommand i .plain := by
  cases i <;> cases h
  case rdb.refl n => exact ⟨_, fun _ => rfl, .of_readInto (readBits_ensures _).stays (readBits_keeps _) _⟩
  case rds.refl n => exact ⟨_, fun _ => rfl, .of_readInto (readSigned_stays _) (readSigned_keeps _) _⟩
  case rdr.refl k => exact ⟨_, fun _ => rfl, .of_readInto (readRice_stays _) (readRice_keeps _) _⟩
  case rdu.refl =>
    exact ⟨_, fun _ => rfl, .of_cursor (.bind readUnary_stays fun _ _ => finishWith_givesOk _)
      (.bind resultOnly_closed (readUnary_keeps.mono fun _ _ => CursorOnly.result) fun _ => finishWith_keeps _)⟩
  case aln.refl =>
    exact ⟨_, fun _ => rfl, .of_operation byteAlign_stays (.of_neverIllegal byteAlign_neverIllegal)⟩
  case gc8.refl => exact ⟨(Cmd.read fun t => t.crc8.setWidth 64).bind finishWith, fun _ => rfl, .of_read _⟩
  case gc16.refl => exact ⟨(Cmd.read fun t => t.crc16.setWidth 64).bind finishWith, fun _ => rfl, .of_read _⟩
  case crcr.refl =>
    exact ⟨_, fun _ => rfl, .of_operation (setCrcs_stays (fun _ => 0) fun _ => 0)
      (.of_neverIllegal <| .update fun _ => rfl)⟩

theorem machineFootprint_smp {c n j : Nat} (hc : c ≤ 7) (hn : n ≤ 65535) (hj : j < n) :
    machineFootprint.smp (smpAddress c j) :=
  (machineFootprint_allowsSubframe hc).smp n trivial hn j hj

theorem isCommand_predictor {order c w : Byte} (h : i = .fixp order c w ∨ i = .lpcp order c w) :
    IsCommand i (.predictor c.toNat order.toNat) := by
  obtain rfl | rfl := h
  · refine ⟨_, fun _ => rfl, .operandCheck fun ⟨_, hc, _⟩ => ⟨.bind (predictorChecks_ensures _ _ _) fun n ⟨_, hn⟩ =>
      .andThen (fixedRecon_stays _ _ fun _ _ => machineFootprint_smp hc hn) fun _ => .pure (.inl rfl), ?_⟩⟩
    exact .of_reads (predictorChecks_keeps _ _ _) fun _ => .andThen (fixedRecon_neverIllegal _ _ _ _) (.pure _)
  · refine ⟨_, fun _ => rfl, .operandCheck fun ⟨_, _, hc, _⟩ => ⟨.bind (predictorChecks_ensures _ _ _) fun n ⟨_, hn⟩ =>
      .bind readShift_stays fun _ _ => .andThen (.require _ rfl) fun _ =>
      .andThen (lpcRecon_stays _ _ _ fun _ _ => machineFootprint_smp hc hn) fun _ => .pure (.inl rfl), ?_⟩⟩
    exact .of_reads (predictorChecks_keeps _ _ _) fun _ => .bind readShift_neverIllegal fun _ =>
      .andThen (.require nofun) <| .andThen (lpcRecon_neverIllegal _ _ _ _ _) (.pure _)

theorem isCommand_resd (order : Byte) : IsCommand (.resd order) (.residual order.toNat) :=
  ⟨_, fun _ => rfl, .operandCheck fun _ =>
    .of_operation ((machineFootprint_allowsSubframe (Nat.zero_le 7)).residualSection_stays _)
      (residualSection_illegalKeeps _)⟩

theorem isCommand_subf (c bps : Byte) : IsCommand (.subf c bps) (.subframe c.toNat) :=
  ⟨_, fun _ => rfl, .operandCheck fun ⟨hc, _⟩ => .of_operation (subframe_stays (machineFootprint_allowsSubframe hc) _)
    (subframe_illegalKeeps _ _)⟩

theorem isCommand_decor (a bps : Byte) : IsCommand (.decor a bps) .decorrelator :=
  ⟨_, fun _ => rfl, .operandCheck fun _ => .of_operation (decorrelator_stays _ fun _ _ _ hn _ hj =>
    ⟨machineFootprint_smp (by omega) hn hj, machineFootprint_smp (by omega) hn hj⟩)
    (decorrelator_illegalKeeps _ _)⟩

theorem isCommand_fhdr : IsCommand .fhdr .plain :=
  ⟨_, fun _ => rfl, .of_operation (frameHeader_ensures machineFootprint_allowsHeader).stays frameHeader_illegalKeeps⟩

theorem frameFooter_disciplined (hf : footer) : Disciplined footer frameFooter :=
  .of_footer hf frameFooter_ensures (.of_neverIllegal frameFooter_neverIllegal)

theorem frameBody_disciplined (hf : footer) : Disciplined footer frameBody :=
  .of_footer hf (frameBody_ensures machineFootprint_allowsHeader fun _ => machineFootprint_allowsSubframe)
    frameBody_illegalKeeps

theorem isCommand_fftr : IsCommand .fftr .footer := ⟨_, fun _ => rfl, frameFooter_disciplined (.inl rfl)⟩

theorem isCommand_frame : IsCommand .frame .frame := ⟨_, fun _ => rfl, frameBody_disciplined (.inr rfl)⟩

/-- From s to t the instruction has run a disciplined command; a subframe header that of the SUBF that waits for it (log 1). -/
def RunsCommand (i : Instr) (s t : State) : Prop :=
  ∃ k body s', OutputsKept s s' ∧ runCommand k body s' = .next t ∧ Disciplined (i = .fftr ∨ i = .frame) body

theorem IsCommand.runs (hi : IsCommand i k) (h : exec i s = .next t) : RunsCommand i s t := by
  obtain ⟨body, run, hb⟩ := hi
  exact ⟨k, body, s, .refl s, run s ▸ h, hb⟩

theorem exec_header_runs (hi : isSubframeHeader i = true) (h : exec i s = .next t) : RunsCommand i s t := by
  obtain ⟨code, kind, flag, hcode, hk, e⟩ := exec_header hi
  rw [e] at h
  cases hsub : s.sub with
  | none => rw [runHeader, hsub] at h; cases h
  | some o =>
    rw [runHeader_of_sub hsub] at h
    have waiting : OutputsKept s { s with sub := none } := ⟨rfl, rfl, rfl, rfl, rfl⟩
    refine ⟨_, _, _, waiting, h, ?_⟩
    exact .operandCheck fun ⟨hc, _⟩ =>
      have allowed := machineFootprint_allowsSubframe hc
      .of_operation (subframeWithHeader_stays allowed (classify_staysIn allowed hcode hk) _ _ _)
        (subframeWithHeader_illegalKeeps hk _ _ _)

theorem exec_runs (h : exec i s = .next t) : RunsCommand i s t := by
  by_cases hh : isSubframeHeader i = true
  · exact exec_header_runs hh h
  cases i with
  | rdb | rds | rdu | rdr | aln | gc8 | gc16 | crcr => exact (isCommand_cursor rfl).runs h
  | fixp order c w => exact (isCommand_predictor (.inl rfl)).runs h
  | lpcp order c w => exact (isCommand_predictor (.inr rfl)).runs h
  | resd order => exact (isCommand_resd order).runs h
  | subf c bps => exact (isCommand_subf c bps).runs h
  | decor a bps => exact (isCommand_decor a bps).runs h
  | fhdr => exact isCommand_fhdr.runs h
  | fftr => exact isCommand_fftr.runs h
  | frame => exact isCommand_frame.runs h
  | _ => exact absurd rfl hh

/-! The ends of a command. -/

/-- A disciplined command ended well, with OK or IntegrityError, or raised the code it ended with. -/
theorem Disciplined.cases (hb : Disciplined footer body) (h : runCommand k body s = .next t) :
    (∃ u, body (beginCommand s) = .ok t.code u ∧ t = endCommand t.code u ∧
      (t.code = .ok ∨ footer ∧ t.code = .integrityError)) ∨
    (∃ u, body (beginCommand s) = .raised t.code u ∧ SnapOf s u ∧ t = fatalEnd k t.code u ∧ t.code.fatal = true) := by
  obtain ⟨c, u, e, rfl⟩ | ⟨c, u, e, rfl⟩ := runCommand_next h
  · exact .inl ⟨u, e, rfl, (hb.ends.of_ok trivial e).1⟩
  · obtain ⟨fatal, inside⟩ := hb.ends.of_raised trivial e
    have snap := inside.only.snapOf
    obtain ⟨-, -, -, -, code, -⟩ := fatalEnd_restores (k := k) (c := c) snap
    rw [code]
    exact .inr ⟨u, e, snap, rfl, fatal⟩

/-- IntegrityError comes from a footer only (R304). -/
theorem Disciplined.footer_of_integrityError (hb : Disciplined footer body) (h : runCommand k body s = .next t)
    (hc : t.code = .integrityError) : footer := by
  obtain ⟨u, -, -, hok | ⟨hf, -⟩⟩ | ⟨u, -, -, -, fatal⟩ := hb.cases h
  · rw [hc] at hok; cases hok
  · exact hf
  · rw [hc] at fatal; cases fatal

/-- A fatal end is one of R302. -/
theorem Disciplined.of_fatal (hb : Disciplined footer body) (h : runCommand k body s = .next t)
    (hc : t.code.fatal = true) : ∃ u, body (beginCommand s) = .raised t.code u ∧ SnapOf s u ∧ t = fatalEnd k t.code u := by
  obtain ⟨u, -, -, hok | ⟨-, hok⟩⟩ | ⟨u, e, snap, ht, -⟩ := hb.cases h
  · rw [hok] at hc; cases hc
  · rw [hok] at hc; cases hc
  · exact ⟨u, e, snap, ht⟩

/-- After IllegalCommand nothing is UNDEF (R303). -/
theorem Disciplined.outputsKept_of_illegal (hb : Disciplined footer body) (h : runCommand k body s = .next t)
    (hc : t.code = .illegalCommand) : OutputsKept s t := by
  obtain ⟨u, e, snap, ht⟩ := hb.of_fatal h (by rw [hc]; rfl)
  rw [hc] at e ht
  obtain ⟨res, smp, undef, spoiled, valid⟩ := hb.illegal e
  rw [ht, fatalEnd_eq snap, if_pos rfl]
  exact ⟨res, smp, undef, spoiled, valid⟩

/-- After another fatal code a command has left UNDEF what its row of R303's table says. -/
theorem IsCommand.undefined (hi : IsCommand i k) (h : exec i s = .next t) (hc : t.code.fatal = true)
    (hne : t.code ≠ .illegalCommand) : ∃ v, t = undefine k v := by
  obtain ⟨body, run, hb⟩ := hi
  rw [run] at h
  obtain ⟨u, -, snap, ht⟩ := hb.of_fatal h hc
  rw [fatalEnd_eq snap, if_neg hne] at ht
  exact ⟨_, ht⟩

end Sys2Proof.Machine
end

section
/-! SUPPORT. STATUS.VALID after a footer (46_frame.md R270, R271), and what each row of R303's table leaves (60_exceptions.md
R303), on the state that the fatal end hands to it. -/

namespace Sys2Proof.Machine

variable {s t v : State} {k : CommandKind} {footer : Prop} {body : Cmd Code}

/-! STATUS.VALID. -/

/-- The footer sets VALID where the CRC-16 agrees, and clears it where it does not. -/
theorem frameFooter_valid {c : Code} (h : frameFooter s = .ok c t) : t.valid = decide (c = .ok) := by
  obtain ⟨_, u, -, h⟩ := andThen_eq_ok.mp h
  rw [read_bind] at h
  obtain ⟨got, v, -, h⟩ := bind_eq_ok.mp h
  split at h <;> (cases h; rfl)

/-- The decorrelation behind FRAME's footer leaves VALID to it (R280). -/
theorem frameBody_valid {c : Code} (h : frameBody s = .ok c t) : t.valid = decide (c = .ok) := by
  rw [frameBody_eq] at h
  obtain ⟨_, u, -, h⟩ := andThen_eq_ok.mp h
  rw [read_bind] at h
  obtain ⟨_, v, -, h⟩ := andThen_eq_ok.mp h
  obtain ⟨st, w, hfooter, h⟩ := bind_eq_ok.mp h
  obtain ⟨_, x, hdecor, h⟩ := andThen_eq_ok.mp h
  cases h
  have valid : t.valid = w.valid := by rw [(decorrelator_keeps _ _).of_ok hdecor]
  exact valid.trans (frameFooter_valid hfooter)

/-- A command that ends with IntegrityError has ended well, and so left VALID to its body (R304). -/
theorem Disciplined.valid_of_integrityError (hb : Disciplined footer body)
    (hv : ∀ {s c t}, body s = .ok c t → t.valid = decide (c = .ok)) (h : runCommand k body s = .next t)
    (hc : t.code = .integrityError) : t.valid = false := by
  obtain ⟨u, e, ht, -⟩ | ⟨u, -, -, -, fatal⟩ := hb.cases h
  · rw [ht, endCommand_valid, hv e, hc]; rfl
  · rw [hc] at fatal; cases fatal

/-! The rows of R303's table. -/

theorem cellGet_cellErase_inside {m : Entries} {lo count x : Nat} (h1 : lo ≤ x) (h2 : x < lo + count) :
    cellGet (cellErase m lo count) x = none := by
  rw [cellGet_cellErase, if_pos ⟨h1, h2⟩]

/-- A range erased in any state, and kept outside by the command. -/
theorem erasedRange_of_cellErase {m n o : Entries} {lo count : Nat} (hn : n = cellErase o lo count)
    (hout : SameOutside m n lo count) : ErasedRange m n lo count :=
  ⟨fun _ h1 h2 => by rw [hn, cellGet_cellErase_inside h1 h2], hout⟩

/-- Every row but FRAME's erases by the NBLK that the command began with. -/
theorem nblkOf_of_undefined (ht : t = undefine k v) (hk : k ≠ .frame) (hfh : t.fh = s.fh) : nblkOf v = nblkOf s := by
  rw [ht, undefine_fh k v hk] at hfh
  rw [nblkOf, nblkOf, hfh]

/-- A register with both marks is one that holds no value, to the host as to a command (R52, R303). -/
theorem holdsNoValue {n : Nat} (hu : t.undef.getLsbD n = true) (hs : t.spoiled.getLsbD n = true) :
    registerRead t n = none ∧ LeftUndef t n = true :=
  ⟨registerRead_of_marked hu, by rw [LeftUndef, hu, hs]; rfl⟩

theorem undefSubframeRegs_marks (s : State) {n : Nat} (h : (0x30 ≤ n ∧ n ≤ 0x34) ∨ (0x40 ≤ n ∧ n ≤ 0x5F)) :
    (undefSubframeRegs s).undef.getLsbD n = true ∧ (undefSubframeRegs s).spoiled.getLsbD n = true := by
  have marked (u : BitVec 128) : (u ||| markRange 0x30 5 ||| markRange 0x40 32).getLsbD n = true := by
    rw [getLsbD_subframeMarks]
    obtain h | h := h <;> simp [h]
  exact ⟨marked _, marked _⟩

theorem undefine_subframe_holdsNoValue {c : Nat} (ht : t = undefine (.subframe c) v) {n : Nat}
    (h : (0x30 ≤ n ∧ n ≤ 0x34) ∨ (0x40 ≤ n ∧ n ≤ 0x5F)) : registerRead t n = none ∧ LeftUndef t n = true := by
  obtain ⟨undef, spoiled⟩ := undefSubframeRegs_marks (undefSmp c 0 (nblkOf v) (undefRes 0 (nblkOf v) v)) h
  rw [ht]
  exact holdsNoValue undef spoiled

theorem undefine_frame_holdsNoValue (ht : t = undefine .frame v) {n : Nat} (h : IsOutputRegister n) :
    registerRead t n = none ∧ LeftUndef t n = true := by
  have marked {u : BitVec 128} (hu : (0x30 ≤ n ∧ n ≤ 0x34) ∨ (0x40 ≤ n ∧ n ≤ 0x5F) → u.getLsbD n = true) :
      (u ||| markRange 0x20 8).getLsbD n = true := by
    rw [BitVec.getLsbD_or, getLsbD_markRange (by omega)]
    obtain h | h := h
    · rw [decide_eq_true (by omega), Bool.or_true]
    · rw [hu h, Bool.true_or]
  have regs := fun h => undefSubframeRegs_marks { v with res := [], smp := [] } (n := n) h
  rw [ht]
  exact holdsNoValue (marked fun h => (regs h).1) (marked fun h => (regs h).2)

/-! FHDR, which leaves nothing UNDEF. -/

/-- A FHDR that fails has written no FH register (R268). -/
theorem fhdr_undef_of_fatal (h : exec .fhdr s = .next t) (hc : t.code.fatal = true) : t.undef = s.undef := by
  have run : runCommand .plain (frameHeader.andThen (Cmd.pure .ok)) s = .next t := h
  obtain ⟨c, u, e, rfl⟩ | ⟨c, u, e, rfl⟩ := runCommand_next run
  · obtain ⟨_, _, -, ok⟩ := andThen_eq_ok.mp e
    cases ok
    cases hc
  · obtain e | ⟨_, _, -, raised⟩ := andThen_eq_raised.mp e
    · have undef := (frameHeader_raised e).undef
      rw [fatalEnd_eq (frameHeader_keeps.of_raised e).snapOf]
      split <;> exact undef
    · cases raised

end Sys2Proof.Machine

open Sys2Proof Sys2Proof.Machine

/-- Settles O50: no part raises IntegrityError, and only a footer gives it, having cleared VALID. -/
theorem integrityErrorIsNonFatal : Obligations.IntegrityErrorIsNonFatal := by
  intro i s t h hc
  obtain ⟨k, body, s', -, run, disciplined⟩ := exec_runs h
  have hi := disciplined.footer_of_integrityError run hc
  have sticky : t.sticky = (t.code.fatal || s.sticky) := (exec_hostFrame h).sticky
  refine ⟨hi, ?_, by rw [sticky, hc]; rfl⟩
  obtain rfl | rfl := hi
  · exact (frameFooter_disciplined trivial).valid_of_integrityError frameFooter_valid h hc
  · exact (frameBody_disciplined trivial).valid_of_integrityError frameBody_valid h hc

/-- Settles O49: an IllegalCommand comes before anything is written; another fatal end leaves what the command's row of R303's
table erases and marks, and the command's frame says that nothing else has changed. -/
theorem fatalEndMarksOutputs : Obligations.FatalEndMarksOutputs := by
  refine fun i s t h hc => ⟨fun hill => ?illegal, fun hne =>
    ⟨fun hi => ?nothing, fun order c w hi => ?predictor, fun order hi => ?resd, fun c bps hi => ?subf,
      fun a bps hi => ?decor, fun hi => ?frame⟩⟩
  case illegal =>
    obtain ⟨k, body, s', hs', run, disciplined⟩ := exec_runs h
    obtain ⟨res, smp, undef, spoiled, valid⟩ := hs'.trans (disciplined.outputsKept_of_illegal run hill)
    exact ⟨res, smp, undef, spoiled, valid⟩
  case nothing =>
    obtain hi | rfl | rfl := hi
    · obtain ⟨only, -⟩ := cursorCommandsFrame i s t hi h
      rw [only]
      exact ⟨rfl, rfl, rfl⟩
    · have undef := fhdr_undef_of_fatal h hc
      obtain ⟨only, -⟩ := (frameCommandsFrame s t).1 h
      exact ⟨by rw [only], by rw [only], undef⟩
    · have only := (frameCommandsFrame s t).2.1 h
      rw [only]
      exact ⟨rfl, rfl, rfl⟩
  case predictor =>
    obtain ⟨v, ht⟩ := (isCommand_predictor hi).undefined h hc hne
    obtain ⟨only, outside, -⟩ := exec_predictorFrame hi s t h
    have nblk  := nblkOf_of_undefined ht nofun (s := s) (by rw [only])
    refine ⟨by rw [only], by rw [only], erasedRange_of_cellErase (o := v.smp) ?_ outside⟩
    rw [ht, ← nblk]; rfl
  case resd =>
    subst hi
    obtain ⟨v, ht⟩ := (isCommand_resd order).undefined h hc hne
    obtain ⟨only, outside⟩ := resdFrame order s t h
    have nblk  := nblkOf_of_undefined ht nofun (s := s) (by rw [only])
    refine ⟨by rw [only], by rw [only], erasedRange_of_cellErase (o := v.res) ?_ outside⟩
    rw [ht, ← nblk]; rfl
  case subf =>
    subst hi
    obtain ⟨v, ht⟩ := (isCommand_subf c bps).undefined h hc hne
    obtain ⟨only, resOutside, smpOutside, -⟩ := subframesFrame _ c.toNat s t (.inl ⟨bps, c, rfl, rfl⟩) h
    have nblk  := nblkOf_of_undefined ht nofun (s := s) (by rw [only])
    refine ⟨erasedRange_of_cellErase (o := v.res) ?_ resOutside, erasedRange_of_cellErase (o := v.smp) ?_ smpOutside,
      fun n => undefine_subframe_holdsNoValue ht⟩
    · rw [ht, ← nblk]; rfl
    · rw [ht, ← nblk]; rfl
  case decor =>
    subst hi
    obtain ⟨v, ht⟩ := (isCommand_decor a bps).undefined h hc hne
    obtain ⟨only, outside⟩ := decorFrame a bps s t h
    have nblk  := nblkOf_of_undefined ht nofun (s := s) (by rw [only])
    refine ⟨by rw [only], by rw [only], fun j hj => ?_, outside⟩
    rw [← nblk] at hj
    obtain ⟨left, right⟩ := decorFootprint_smp hj
    rw [ht]
    exact ⟨undefine_decorrelator_erases v left, undefine_decorrelator_erases v right⟩
  case frame =>
    subst hi
    obtain ⟨v, ht⟩ := isCommand_frame.undefined h hc hne
    exact ⟨by rw [ht]; rfl, by rw [ht]; rfl, fun n => undefine_frame_holdsNoValue ht⟩

end

section
/-! SUPPORT. The state after reset (70_reset_and_hazards.md R340): power-up is what the reset access makes of any state. -/

namespace Sys2Proof.Machine

/-- A register whose reset value is UNDEF reads so after the reset access. -/
theorem registerRead_resetCore_of_undef (s : State) {n : Nat} (h : (0x10 ≤ n ∧ n ≤ 0x17) ∨ IsOutputRegister n) :
    registerRead (resetCore s) n = none :=
  registerRead_of_marked ((getLsbD_undefAtReset n).trans (decide_eq_true h))

/-- CMD, SEEK and the numbers not in the map read 0 (R51). -/
theorem registerRead_of_unmapped {s : State} (h : MarksSound s) {n : Nat} (hn : IsUnmapped n) :
    registerRead s n = some 0 := by
  have defined : ¬ (0x10 ≤ n ∧ n ≤ 0x17) ∧ ¬ IsOutputRegister n := by unfold IsUnmapped at hn; omega
  rw [registerRead_of_marksSound h defined.1 defined.2, registerBits_of_unmapped hn]

theorem resetCore_atReset (s : State) : AtReset (resetCore s) :=
  have sound : MarksSound (resetCore s) := reset_marksSound
  have cmd := registerRead_of_unmapped sound (n := 0x00) (.inl rfl)
  have seek := registerRead_of_unmapped sound (n := 0x05) (.inr (.inl rfl))
  ⟨rfl, rfl, rfl, rfl, rfl, rfl, rfl, rfl, rfl, rfl, rfl, rfl, cmd, seek,
    fun _ => registerRead_resetCore_of_undef s, fun _ => rfl, fun _ => rfl, fun _ => rfl⟩

theorem normative_legal : Params.normative.Legal := by decide

end Sys2Proof.Machine

open Sys2Proof Sys2Proof.Machine

/-- Settles O1: power-up is the state that the reset access gives from itself, and the access leaves every state AtReset. -/
theorem resetAccessGivesResetState : Obligations.ResetAccessGivesResetState :=
  ⟨resetCore_atReset State.reset, fun s rest hsub hin =>
    ⟨resetCore { s with inbox := rest }, step_of_access hsub hin nofun, resetCore_atReset _, rfl, rfl⟩⟩

/-- Settles O2: no cell is listed, no bit of the buffer is valid, and the marks are those of the registers UNDEF at reset. -/
theorem resetMeetsInvariant : Obligations.ResetMeetsInvariant :=
  have noBuf : ∀ c ∈ State.reset.buf, c.1 < State.reset.cfg.bufMax := nofun
  have noRes : ∀ c ∈ State.reset.res, IsResAddress c.1 := nofun
  have noSmp : ∀ c ∈ State.reset.smp, IsSmpAddress c.1 := nofun
  have cursor : CursorInBuffer State.reset := ⟨Nat.zero_le _, Nat.zero_le _⟩
  ⟨normative_legal, reset_memory_wf, ⟨noBuf, noRes, noSmp⟩, cursor, nofun, reset_marksSound, rfl⟩

end

section
/-! SUPPORT. Parts of a command that meet no model fault (70_reset_and_hazards.md R357): over a buffer whose bytes are all
written, reading the bitstream faults nowhere, and every register and entry that RESD, SUBF and FRAME read behind it has been
written before. -/

namespace Sys2Proof.Machine

variable {α β : Type} {s t : State}

/-! Runs without a model fault. -/

/-- From a state with P, m meets no model fault, and where it ends well it leaves a state with Q. -/
def Runs (P Q : State → Prop) (m : Cmd α) : Prop :=
  ∀ s, P s → match m s with
    | .ok _ t => Q t
    | .raised _ _ => True
    | .faulted _ => False

namespace Runs

variable {P P' Q Q' : State → Prop} {m : Cmd α} {k : α → Cmd β}

theorem skip {a : α} : Runs P P (Cmd.pure a) := fun _ h => h

theorem raise {c : Code} : Runs P Q (Cmd.raise c : Cmd α) := fun _ _ => trivial

theorem read (g : State → α) : Runs P P (Cmd.read g) := fun _ h => h

theorem update {g : State → State} (h : ∀ s, P s → Q (g s)) : Runs P Q (Cmd.update g) := h

theorem bind (hm : Runs P P' m) (hk : ∀ a, Runs P' Q (k a)) : Runs P Q (m.bind k) := by
  intro s hs
  have first := hm s hs
  cases e : m s with
  | ok a t => rw [e] at first; rw [bind_of_ok e]; exact hk a t first
  | raised c t => rw [bind_of_raised e]; trivial
  | faulted f => rw [e] at first; exact first.elim

theorem andThen {k : Cmd β} (hm : Runs P P' m) (hk : Runs P' Q k) : Runs P Q (m.andThen k) := bind hm fun _ => hk

/-- Behind a check its condition is known. -/
theorem guard {p : Prop} [Decidable p] {c : Code} {k : Cmd β} (hk : p → Runs P Q k) :
    Runs P Q ((Cmd.require p c).andThen k) := by
  unfold Cmd.require; split
  exacts [hk ‹_›, raise]

theorem require {p : Prop} [Decidable p] {c : Code} : Runs P P (Cmd.require p c) := by
  unfold Cmd.require; split
  exacts [skip, raise]

theorem ite {p : Prop} [Decidable p] {m' : Cmd α} (hm : p → Runs P Q m) (hm' : ¬ p → Runs P Q m') :
    Runs P Q (if p then m else m') := by
  split
  exacts [hm ‹_›, hm' ‹_›]

theorem weaken (h : Runs P Q' m) (hQ : ∀ s, Q' s → Q s) : Runs P Q m := by
  intro s hs
  have := h s hs
  cases e : m s <;> rw [e] at this
  exacts [hQ _ this, trivial, this]

/-- Where a weaker condition keeps m from model faults, what is known of its good ends may be added. -/
theorem and_leads (h : Runs P' Q' m) (hP : ∀ s, P s → P' s) (h' : Leads P Q m) : Runs P (fun t => Q' t ∧ Q t) m := by
  intro s hs
  have := h s (hP s hs)
  cases e : m s <;> rw [e] at this
  exacts [⟨this, h' hs e⟩, trivial, this]

/-- A loop whose turn i takes I i to I (i + 1). -/
theorem forRange {I : Nat → State → Prop} {body : Nat → Cmd Unit} : ∀ {count first : Nat},
    (∀ i, first ≤ i → i < first + count → Runs (I i) (I (i + 1)) (body i)) →
      Runs (I first) (I (first + count)) (Cmd.forRange body count first)
  | 0, _, _ => skip
  | count + 1, first, h => by
    rw [forRange_succ, ← Nat.add_assoc, Nat.add_right_comm]
    exact (h first le_rfl (by omega)).andThen (forRange fun i h1 h2 => h i (by omega) (by omega))

theorem forRange_zero {I : Nat → State → Prop} {body : Nat → Cmd Unit} {count : Nat}
    (h : ∀ i, i < count → Runs (I i) (I (i + 1)) (body i)) : Runs (I 0) (I count) (Cmd.forRange body count 0) := by
  have loop := forRange (I := I) (body := body) (count := count) (first := 0) fun i _ hi => h i (by omega)
  rwa [Nat.zero_add] at loop

/-- A loop each of whose turns keeps P. -/
theorem loop {body : Nat → Cmd Unit} {count first : Nat}
    (h : ∀ i, first ≤ i → i < first + count → Runs P P (body i)) : Runs P P (Cmd.forRange body count first) :=
  forRange (I := fun _ => P) h

theorem exists_next {body : Cmd Code} (h : Runs P Q body) (k : CommandKind) (hs : P (beginCommand s)) :
    ∃ t, runCommand k body s = .next t := by
  have := h _ hs
  obtain ⟨c, u, -, r⟩ | ⟨c, u, -, r⟩ | ⟨f, e, -⟩ := runCommand_cases k body s
  · exact ⟨_, r⟩
  · exact ⟨_, r⟩
  · rw [e] at this; exact this.elim

end Runs

/-! The bitstream. -/

/-- Every byte of the buffer is written, and the cursor is inside the buffer. -/
structure Readable (s : State) : Prop where
  cursor : CursorSound s
  written : BufferWritten s

theorem Readable.isSome (h : Readable s) {p : Nat} (hp : p < 8 * s.len.toNat) :
    (cellGet s.buf (p / 8)).isSome = true := h.written _ (by omega)

theorem Readable.of_inside {f : Footprint} (h : Readable s) (hi : Inside f s t) : Readable t := by
  have written : BufferWritten t := by rw [hi.only]; exact h.written
  exact ⟨hi.cursor h.cursor, written⟩

/-- Only the cursor, the CRCs and the record of a model fault may differ. -/
def ReadingOnly (s t : State) : Prop :=
  t = { s with pos := t.pos, crc8 := t.crc8, crc16 := t.crc16, undefRead := t.undefRead }

theorem CursorOnly.reading (h : CursorOnly s t) : ReadingOnly s t := by
  unfold CursorOnly ReadingOnly at *; rw [h]

/-- P allows the bitstream to be read, and speaks of nothing that reading changes. -/
structure Steady (P : State → Prop) : Prop where
  readable : ∀ {s}, P s → Readable s
  reading : ∀ {s t}, P s → ReadingOnly s t → Readable t → P t

theorem readable_steady : Steady Readable := ⟨id, fun _ _ h => h⟩

theorem bitAt_runs {p : Nat} (h : (cellGet s.buf (p / 8)).isSome = true) : Runs (· = s) (· = s) (bitAt p) := by
  obtain ⟨b, hb⟩ := Option.isSome_iff_exists.mp h
  have bit : BitIs s.buf p (b.getLsbD (7 - p % 8)) := by simp [BitIs, hb]
  rintro _ rfl
  rw [bitAt_of_bitIs bit]

theorem peekBits_runs : ∀ {n p v : Nat}, (∀ q, p ≤ q → q < p + n → (cellGet s.buf (q / 8)).isSome = true) →
    Runs (· = s) (· = s) (peekBits n p v)
  | 0, _, _, _ => .skip
  | _ + 1, p, _, h =>
    .bind (bitAt_runs (h p le_rfl (by omega))) fun _ => peekBits_runs fun q h1 h2 => h q (by omega) (by omega)

theorem scanUnary_runs : ∀ {left q : Nat},
    (∀ p, s.pos.toNat + q ≤ p → p < s.pos.toNat + q + left → (cellGet s.buf (p / 8)).isSome = true) →
    Runs (· = s) (· = s) (scanUnary left q)
  | 0, _, _ => .raise
  | left + 1, q, h => by
    intro u hu
    rw [hu]
    exact Runs.bind (bitAt_runs (h _ le_rfl (by omega)))
      (fun _ => .ite (fun _ => .skip) fun _ => scanUnary_runs fun p h1 h2 => h p (by omega) (by omega)) s rfl

theorem Readable.advance_runs (h : Readable s) {n : Nat} (hn : s.pos.toNat + n ≤ 8 * s.len.toNat) :
    Runs (· = s) (fun _ => True) (advance n) := by
  have bounded : s.len.toNat ≤ 2 ^ 61 := h.cursor.1
  rintro _ rfl
  rw [advance_of_isSome (fun j hj => h.isSome (by omega)) (by omega)]
  trivial

/-- What reads the bitstream without a model fault, and does nothing else, keeps P. -/
theorem Steady.runs {P : State → Prop} (hP : Steady P) {m : Cmd α} (hm : Runs Readable (fun _ => True) m)
    (hk : Keeps ReadingOnly m) (hs : Stays frameFootprint m) : Runs P P m :=
  have kept : Leads P P m := fun _ _ _ h run =>
    hP.reading h (hk.of_ok run) ((hP.readable h).of_inside (hs.of_ok trivial run).2)
  (hm.and_leads (fun _ => hP.readable) kept).weaken fun _ h => h.2

theorem readBits_of_readable (n : Nat) : Runs Readable (fun _ => True) (readBits n) := by
  intro s hs
  unfold readBits
  split_ifs with hend
  · trivial
  · have peeked := peekBits_runs (n := n) (p := s.pos.toNat) (v := 0) fun q _ hq => hs.isSome (by omega)
    exact peeked.bind (fun v => (hs.advance_runs (n := n) (by omega)).andThen .skip) s rfl

/-- The search finds a stop bit before the end of the buffer, or none. -/
theorem readUnary_of_readable : Runs Readable (fun _ => True) readUnary := by
  intro s hs
  have searched := scanUnary_runs (left := bitsLeft s) (q := 0) (s := s)
    (fun p _ hp => hs.isSome (by unfold bitsLeft at hp; omega)) s rfl
  unfold readUnary
  obtain ⟨q, hq, e⟩ | e | ⟨d, e⟩ := scanUnary_cases s (bitsLeft s) 0
  · rw [bind_of_ok e]
    exact (hs.advance_runs (n := q + 1) (by unfold bitsLeft at hq; omega)).andThen .skip s rfl
  · rw [bind_of_raised e]; trivial
  · rw [e] at searched; exact searched.elim

theorem byteAlign_of_readable : Runs Readable (fun _ => True) byteAlign := fun s hs =>
  hs.advance_runs (by have := hs.cursor.2; omega) s rfl

section Reads

variable {P : State → Prop} (hP : Steady P)

include hP

theorem readBits_runs (n : Nat) : Runs P P (readBits n) :=
  hP.runs (readBits_of_readable n) ((readBits_keeps n).mono fun _ _ => CursorOnly.reading) (readBits_ensures n).stays

theorem readSigned_runs (n : Nat) : Runs P P (readSigned n) :=
  .ite (fun _ => .skip) fun _ => .bind (readBits_runs hP n) fun _ => .skip

theorem readUnary_runs : Runs P P readUnary :=
  hP.runs readUnary_of_readable (readUnary_keeps.mono fun _ _ => CursorOnly.reading) readUnary_stays

theorem readRice_runs (k : Nat) : Runs P P (readRice k) :=
  .bind (readUnary_runs hP) fun _ => .guard fun _ => .bind (readBits_runs hP k) fun _ => .skip

theorem byteAlign_runs : Runs P P byteAlign :=
  hP.runs byteAlign_of_readable (byteAlign_keeps.mono fun _ _ => CursorOnly.reading) byteAlign_stays

/-- A register that no failed command has left UNDEF is read (R18, R303). -/
theorem useRegister_runs {n : Nat} (h : ∀ s, P s → LeftUndef s n = false) : Runs P P (useRegister n) := by
  intro s hs
  rw [useRegister_eq, if_neg (by rw [h s hs]; exact Bool.false_ne_true)]
  have readable := hP.readable hs
  exact hP.reading hs rfl ⟨readable.cursor, readable.written⟩

/-- What follows the check of NBLK runs on the block size it found (R42). -/
theorem checkedNblk_runs {nblk : Nat} {Q : State → Prop} {k : Nat → Cmd α} (hn : ∀ s, P s → nblkOf s = nblk)
    (hu : ∀ s, P s → LeftUndef s 0x21 = false) (hk : nblk ≤ 65535 → Runs P Q (k nblk)) :
    Runs P Q (checkedNblk.bind k) := by
  have checked : Runs P P checkedNblk :=
    .andThen (useRegister_runs hP hu) <| .bind (.read _) fun _ => .guard fun _ => .skip
  intro s hs
  have first := checked s hs
  cases e : checkedNblk s with
  | ok n t =>
    obtain ⟨⟨rfl, hle⟩, -⟩ := (checkedNblk_ensures (f := subframeFootprint 0 nblk)).of_ok (hn s hs) e
    rw [e] at first
    rw [bind_of_ok e]
    exact hk hle t first
  | raised c t => rw [bind_of_raised e]; trivial
  | faulted f => rw [e] at first; exact first.elim

end Reads

/-! RESD and SUBF. -/

/-- The bitstream can be read, NBLK is nblk, and no failed command has left NBLK UNDEF. -/
structure BlockKnown (nblk : Nat) (s : State) : Prop where
  readable : Readable s
  nblk_eq : nblkOf s = nblk
  known : LeftUndef s 0x21 = false

/-- In such a state, RES[0..residuals-1] and SMP[c][0..samples-1] hold values, and no failed command has left
QLP[0..coefficients-1] UNDEF. -/
structure Filled (c nblk residuals samples coefficients : Nat) (s : State) : Prop extends BlockKnown nblk s where
  res : ∀ i, i < residuals → (cellGet s.res i).isSome = true
  smp : ∀ i, i < samples → (cellGet s.smp (smpAddress c i)).isSome = true
  qlp : ∀ j, j < coefficients → LeftUndef s (0x40 + j) = false

theorem BlockKnown.reading {nblk : Nat} (h : BlockKnown nblk s) (hr : ReadingOnly s t) (ht : Readable t) :
    BlockKnown nblk t := by
  have nblk_eq : nblkOf t = nblkOf s := by rw [hr]; rfl
  have known : LeftUndef t 0x21 = LeftUndef s 0x21 := by rw [hr]
  exact ⟨ht, nblk_eq.trans h.nblk_eq, known.trans h.known⟩

/-- Writing RES, SMP or VALID reaches neither the bitstream nor NBLK. -/
theorem BlockKnown.write {nblk : Nat} (h : BlockKnown nblk s)
    (hw : t = { s with res := t.res, smp := t.smp, valid := t.valid }) : BlockKnown nblk t := by
  rw [hw]
  exact ⟨⟨h.readable.cursor, h.readable.written⟩, h.nblk_eq, h.known⟩

section Filling

variable {c nblk r n q : Nat}

theorem filled_steady : Steady (Filled c nblk r n q) where
  readable h := h.readable
  reading h hr ht := by
    have known := h.toBlockKnown.reading hr ht
    unfold ReadingOnly at hr
    exact ⟨known, by rw [hr]; exact h.res, by rw [hr]; exact h.smp, by rw [hr]; exact h.qlp⟩

theorem Filled.mono {r' n' q' : Nat} (h : Filled c nblk r n q s) (hr : r' ≤ r) (hn : n' ≤ n) (hq : q' ≤ q) :
    Filled c nblk r' n' q' s :=
  ⟨h.toBlockKnown, fun i hi => h.res i (hi.trans_le hr), fun i hi => h.smp i (hi.trans_le hn),
    fun j hj => h.qlp j (hj.trans_le hq)⟩

theorem checkedNblk_fills {Q : State → Prop} {k : Nat → Cmd α}
    (hk : nblk ≤ 65535 → Runs (Filled c nblk r n q) Q (k nblk)) : Runs (Filled c nblk r n q) Q (checkedNblk.bind k) :=
  checkedNblk_runs filled_steady (fun _ h => h.nblk_eq) (fun _ h => h.known) hk

/-! Entries and registers that are written are read. -/

theorem isSome_cellSet {m : Entries} {a x : Nat} {v : Word} (h : x ≠ a → (cellGet m x).isSome = true) :
    (cellGet (cellSet m a v) x).isSome = true := by
  rw [cellGet_cellSet]
  split_ifs with hx
  exacts [rfl, h hx]

theorem writeRes_fills (v : Int) : Runs (Filled c nblk r n q) (Filled c nblk (r + 1) n q) (writeRes r v) :=
  .update fun _ h => ⟨h.toBlockKnown.write rfl,
    fun i hi => isSome_cellSet fun hne => h.res i (by omega), h.smp, h.qlp⟩

/-- Writing a sample keeps the others, and fills the channel's next entry where it is that one. -/
theorem writeSmp_fills {n' i : Nat} (hn : n' ≤ n + 1) (hi : i = n ∨ n' ≤ n) (v : Int) :
    Runs (Filled c nblk r n q) (Filled c nblk r n' q) (writeSmp c i v) :=
  .update fun _ h => ⟨h.toBlockKnown.write rfl, h.res,
    fun j hj => isSome_cellSet fun hne => h.smp j (by
      have : j ≠ i := fun e => hne (e ▸ rfl)
      omega), h.qlp⟩

/-- A write of SF or QLP clears marks only. -/
theorem Filled.registers (h : Filled c nblk r n q s) (sf : SubframeRegs) (qlp : Vector (BitVec 16) 32) (mask : BitVec 128) :
    Filled c nblk r n q { s with sf := sf, qlp := qlp, undef := s.undef &&& mask } := by
  have cleared {m : Nat} (hm : (s.undef.getLsbD m && s.spoiled.getLsbD m) = false) :
      ((s.undef &&& mask).getLsbD m && s.spoiled.getLsbD m) = false := by
    rw [BitVec.getLsbD_and, Bool.and_right_comm, hm, Bool.false_and]
  exact ⟨⟨⟨h.readable.cursor, h.readable.written⟩, h.nblk_eq, cleared h.known⟩, h.res, h.smp,
    fun j hj => cleared (h.qlp j hj)⟩

theorem setQlp_fills (v : BitVec 16) :
    Runs (Filled c nblk r n q) (Filled c nblk r n (q + 1)) (Cmd.update (setQlp q v)) := .update fun s h => by
  obtain ⟨known, res, smp, qlp⟩ := h.registers s.sf (s.qlp.setIfInBounds q v) (~~~(1#128 <<< (0x40 + q)))
  refine ⟨known, res, smp, fun j hj => ?_⟩
  obtain hj | rfl : j < q ∨ j = q := by omega
  · exact qlp j hj
  · rw [LeftUndef, setQlp_undef, getLsbD_clearMark]; simp

theorem readRes_runs {i : Nat} (hi : i < r) : Runs (Filled c nblk r n q) (Filled c nblk r n q) (readRes i) := by
  intro s h
  obtain ⟨v, hv⟩ := Option.isSome_iff_exists.mp (h.res i hi)
  rw [readRes, hv]
  exact h

theorem readSmp_runs_of_isSome {P : State → Prop} {i : Nat}
    (h : ∀ s, P s → (cellGet s.smp (smpAddress c i)).isSome = true) : Runs P P (readSmp c i) := by
  intro s hs
  obtain ⟨v, hv⟩ := Option.isSome_iff_exists.mp (h s hs)
  rw [readSmp, hv]
  exact hs

theorem readSmp_runs {i : Nat} (hi : i < n) : Runs (Filled c nblk r n q) (Filled c nblk r n q) (readSmp c i) :=
  readSmp_runs_of_isSome fun _ h => h.smp i hi

theorem readQlp_runs {j : Nat} (hj : j < q) : Runs (Filled c nblk r n q) (Filled c nblk r n q) (readQlp j) :=
  .andThen (useRegister_runs filled_steady fun _ h => h.qlp j hj) (.read _)

/-! The residual section fills RES, the reconstruction the channel. -/

theorem readInto_fills {reader : Cmd Int} (hr : ∀ r, Runs (Filled c nblk r n q) (Filled c nblk r n q) reader) (count : Nat) :
    Runs (Filled c nblk r n q) (Filled c nblk (r + count) n q)
      (Cmd.forRange (fun i => reader.bind fun v => writeRes i v) count r) :=
  .forRange (I := fun r => Filled c nblk r n q) fun i _ _ => .bind (hr i) writeRes_fills

theorem readPartition_fills (pbits esc count : Nat) :
    Runs (Filled c nblk r n q) (Filled c nblk (r + count) n q) (readPartition pbits esc count r) :=
  .bind (readBits_runs filled_steady _) fun _ => .ite
    (fun _ => .bind (readBits_runs filled_steady _) fun w =>
      readInto_fills (fun _ => readSigned_runs filled_steady w) count)
    fun _ => readInto_fills (fun _ => readRice_runs filled_steady _) count

theorem readPartitions_fills (pbits esc : Nat) {psize order : Nat} (ho : order ≤ psize) : ∀ {parts p r : Nat},
    Runs (Filled c nblk r n q) (Filled c nblk (r + (parts * psize - if p = 0 then order else 0)) n q)
      (readPartitions pbits esc psize order parts p r)
  | 0, _, _ => .weaken .skip fun _ h => h.mono (by omega) le_rfl le_rfl
  | parts + 1, p, r => by
    have rest := readPartitions_fills pbits esc ho (parts := parts) (p := p + 1)
      (r := r + (psize - if p = 0 then order else 0))
    refine (readPartition_fills _ _ _).andThen (rest.weaken fun _ h => h.mono ?_ le_rfl le_rfl)
    rw [if_neg (Nat.succ_ne_zero p), Nat.succ_mul]
    split <;> omega

theorem residualSection_fills (order : Nat) :
    Runs (Filled c nblk 0 n q) (Filled c nblk (nblk - order) n q) (residualSection order) :=
  checkedNblk_fills fun _ => .bind (readBits_runs filled_steady _) fun _ => .guard fun _ =>
  .bind (readBits_runs filled_steady _) fun porder => .guard fun hdvd => .guard fun ho => by
    refine (readPartitions_fills _ _ ho).weaken fun _ h => ?_
    rwa [Nat.mul_div_cancel' (Nat.dvd_of_mod_eq_zero hdvd), if_pos rfl, Nat.zero_add] at h

theorem weightedHistory_runs {coefficient : Nat → Cmd Int} {order i : Nat}
    (hq : ∀ j, j < order → Runs (Filled c nblk r n q) (Filled c nblk r n q) (coefficient j))
    (hx : ∀ j, j < order → i - 1 - j < n) : ∀ {count j : Nat} {acc : Int}, j + count ≤ order →
    Runs (Filled c nblk r n q) (Filled c nblk r n q) (weightedHistory coefficient c i count j acc)
  | 0, _, _, _ => .skip
  | _ + 1, j, _, h =>
    .bind (hq j (by omega)) fun _ => .bind (readSmp_runs (hx j (by omega))) fun _ =>
    weightedHistory_runs hq hx (by omega)

/-- The prediction of a sample reads the samples before it and these coefficients. -/
abbrev PredictsFrom (prediction : Nat → Cmd Int) (order c nblk q : Nat) : Prop :=
  ∀ r i, order ≤ i → Runs (Filled c nblk r i q) (Filled c nblk r i q) (prediction i)

theorem fixedPrediction_runs (order : Nat) : PredictsFrom (fixedPrediction order c) order c nblk q := fun _ _ _ =>
  weightedHistory_runs (order := order) (fun _ _ => .skip) (fun _ _ => by omega) (by omega)

theorem lpcPrediction_runs {order : Nat} (shift : Nat) : PredictsFrom (lpcPrediction order shift c) order c nblk order :=
  fun _ _ _ => .bind (weightedHistory_runs (order := order) (fun _ => readQlp_runs) (fun _ _ => by omega) (by omega))
    fun _ => .skip

theorem predictedTail_fills {prediction : Nat → Cmd Int} {order : Nat} (hp : PredictsFrom prediction order c nblk q)
    (ho : order ≤ nblk) (w : Nat) :
    Runs (Filled c nblk 0 order q) (Filled c nblk 0 nblk q) (predictedTail prediction order nblk c w) := by
  have loop : Runs (Filled c nblk (nblk - order) order q) (Filled c nblk (nblk - order) (order + (nblk - order)) q)
      (reconstruct prediction order nblk c w) :=
    .forRange (I := fun i => Filled c nblk (nblk - order) i q) fun i h1 h2 =>
      .bind (readRes_runs (by omega)) fun _ => .bind (hp _ i h1) fun _ => .guard fun _ =>
      writeSmp_fills le_rfl (.inl rfl) _
  rw [Nat.add_sub_cancel' ho] at loop
  exact (residualSection_fills order).andThen (loop.weaken fun _ h => h.mono (Nat.zero_le _) le_rfl le_rfl)

/-! The bodies (R226 to R230). -/

theorem readSamples_fills (e count : Nat) : Runs (Filled c nblk r 0 q) (Filled c nblk r count q) (readSamples c e count) :=
  .forRange_zero (I := fun i => Filled c nblk r i q) fun _ _ => .bind (readSigned_runs filled_steady e) fun _ =>
    writeSmp_fills le_rfl (.inl rfl) _

theorem constantBody_fills (e : Nat) : Runs (Filled c nblk r 0 q) (Filled c nblk r nblk q) (constantBody c e nblk) :=
  .bind (readSigned_runs filled_steady e) fun v => .forRange_zero (I := fun i => Filled c nblk r i q) fun _ _ =>
    writeSmp_fills le_rfl (.inl rfl) v

theorem lpcFields_fills (order : Nat) : Runs (Filled c nblk r n 0) (Filled c nblk r n order) (lpcFields order) :=
  .bind (readBits_runs filled_steady 4) fun _ => .guard fun _ => .andThen (.update fun _ h => h.registers _ _ _) <|
  .bind (readSigned_runs filled_steady 5) fun _ => .andThen (.update fun _ h => h.registers _ _ _) <| .guard fun _ =>
  .andThen (.forRange_zero (I := fun j => Filled c nblk r n j) fun _ _ =>
    .bind (readSigned_runs filled_steady _) fun _ => setQlp_fills _) .skip

/-- Each kind of body fills the channel's block, whatever it needs on the way it has written itself. -/
theorem body_fills {code : Nat} {k : SubframeKind} (hk : classify code = some k) (ho : k.order ≤ nblk) (e : Nat) :
    Runs (Filled c nblk 0 0 0) (Filled c nblk 0 nblk 0) (k.body c e nblk) := by
  unfold classify at hk
  split_ifs at hk <;> cases hk
  · exact constantBody_fills e
  · exact readSamples_fills e nblk
  · exact (readSamples_fills e _).andThen (predictedTail_fills (fixedPrediction_runs _) ho e)
  · show Runs _ _ (lpcBody _ c e nblk)
    rw [lpcBody_eq]
    exact (readSamples_fills e _).andThen <| (lpcFields_fills _).bind fun shift =>
      (predictedTail_fills (lpcPrediction_runs shift) ho e).weaken fun _ h =>
        h.mono le_rfl le_rfl (Nat.zero_le _)

theorem classify_check_runs {code : Nat} {k : SubframeKind} (hk : classify code = some k) {P : State → Prop} :
    Runs P P k.check := by
  unfold classify at hk
  split_ifs at hk <;> cases hk
  · exact .skip
  · exact .skip
  · exact .skip
  · show Runs P P (lpcOrderCheck _)
    exact .bind (.read _) fun _ => .require

theorem shiftSamples_fills (wasted : Nat) :
    Runs (Filled c nblk r nblk q) (Filled c nblk r nblk q) (shiftSamples c wasted nblk) :=
  .loop fun _ _ hi => .bind (readSmp_runs (by omega)) fun _ => writeSmp_fills (Nat.le_succ _) (.inr le_rfl) _

theorem behindStart_fills {code : Nat} {k : SubframeKind} (hk : classify code = some k) (bps wasted : Nat) :
    Runs (Filled c nblk 0 0 0) (Filled c nblk 0 nblk 0) (behindStart c bps nblk code wasted k) :=
  .guard fun _ => .guard fun ho => .andThen (.update fun _ h => h.registers _ _ _) <|
  .andThen (body_fills hk ho _) <| .ite (fun _ => shiftSamples_fills wasted) fun _ => .skip

theorem behindChecks_fills (bps : Nat) :
    Runs (Filled c nblk 0 0 0) (Filled c nblk 0 nblk 0) (behindChecks c bps nblk) :=
  .bind (readBits_runs filled_steady 1) fun _ => .guard fun _ => .bind (readBits_runs filled_steady 6) fun code => by
    cases hk : classify code with
    | none => rw [behindTypeCode_of_none hk]; exact .raise
    | some k =>
      rw [behindTypeCode_of_some hk]
      have wasted (flag : Bool) : Runs (Filled c nblk 0 0 0) (Filled c nblk 0 0 0) (readWasted flag) :=
        .ite (fun _ => .bind (readUnary_runs filled_steady) fun _ => .skip) fun _ => .skip
      exact .andThen (classify_check_runs hk) <| .bind (readBits_runs filled_steady 1) fun _ =>
        .bind (wasted _) fun _ => behindStart_fills hk bps _

theorem subframe_eq_checkedNblk (c bps : Nat) : subframe c bps = checkedNblk.bind fun nblk =>
    (Cmd.read fun s => s.cfg.maxSubframeBps).bind fun most =>
    (Cmd.require (bps ≤ most) .unsupportedStream).andThen (behindChecks c bps nblk) := by
  simp only [subframe_eq, subframeChecks, Cmd.andThen, bind_assoc, pure_bind]

theorem subframe_fills (c bps : Nat) : Runs (Filled c nblk 0 0 0) (Filled c nblk 0 nblk 0) (subframe c bps) := by
  rw [subframe_eq_checkedNblk]
  exact checkedNblk_fills fun _ => .bind (.read _) fun _ => .guard fun _ => behindChecks_fills bps

end Filling

/-! FHDR, FFTR and FRAME. -/

/-- The bitstream can be read, and no failed command has left a StreamInfo register UNDEF (R303). -/
structure HeaderReadable (s : State) : Prop where
  readable : Readable s
  info : ∀ n, 0x10 ≤ n → n ≤ 0x17 → s.spoiled.getLsbD n = false

theorem headerReadable_steady : Steady HeaderReadable where
  readable h := h.readable
  reading h hr ht := ⟨ht, by rw [hr]; exact h.info⟩

theorem readInfo_runs {n : Nat} (h1 : 0x10 ≤ n) (h2 : n ≤ 0x17) (g : State → Nat) :
    Runs HeaderReadable HeaderReadable ((useRegister n).andThen (Cmd.read g)) :=
  .andThen (useRegister_runs headerReadable_steady fun s h => by rw [LeftUndef, h.info n h1 h2, Bool.and_false]) (.read _)

theorem setCrcs_runs (c8 : State → BitVec 8) (c16 : State → BitVec 16) :
    Runs HeaderReadable HeaderReadable (Cmd.update fun s => setCrcs (c8 s) (c16 s) s) :=
  .update fun _ h => ⟨⟨h.readable.cursor, h.readable.written⟩, h.info⟩

section Header

variable {P : State → Prop} (hP : Steady P)

include hP

theorem readNumberTail_runs : ∀ n acc, Runs P P (readNumberTail n acc)
  | 0, _ => .skip
  | n + 1, _ => .bind (readBits_runs hP 8) fun _ => .guard fun _ => readNumberTail_runs n _

theorem readNumber_runs : Runs P P readNumber :=
  have tail := readNumberTail_runs hP
  .bind (readBits_runs hP 8) fun _ => .ite (fun _ => .skip) fun _ => .ite (fun _ => .raise) fun _ =>
  .ite (fun _ => tail _ _) fun _ => .ite (fun _ => tail _ _) fun _ => .ite (fun _ => tail _ _) fun _ =>
  .ite (fun _ => tail _ _) fun _ => .ite (fun _ => tail _ _) fun _ => .ite (fun _ => tail _ _) fun _ => .raise

theorem blockSize_runs (code : Nat) : Runs P P (blockSize code) :=
  .ite (fun _ => .skip) fun _ => .ite (fun _ => .skip) fun _ =>
  .ite (fun _ => .bind (readBits_runs hP 8) fun _ => .skip) fun _ =>
  .ite (fun _ => .bind (readBits_runs hP 16) fun _ => .guard fun _ => .skip) fun _ => .skip

/-- The footer reads the rest of a byte and 16 bits, and sets VALID (R270). -/
theorem frameFooter_runs (hv : ∀ {s}, P s → ∀ v, P (setValid v s)) : Runs P P frameFooter :=
  .andThen (byteAlign_runs hP) <| .bind (.read _) fun _ => .bind (readBits_runs hP 16) fun _ => .ite
    (fun _ => .andThen (.update fun _ h => hv h true) .skip)
    fun _ => .andThen (.update fun _ h => hv h false) .skip

end Header

theorem sampleRate_runs (code : Nat) : Runs HeaderReadable HeaderReadable (sampleRate code) := by
  unfold sampleRate
  split
  case h_1 => exact readInfo_runs (by omega) (by omega) _
  case h_13 | h_15 => exact .bind (readBits_runs headerReadable_steady _) fun _ => .skip
  case h_14 => exact readBits_runs headerReadable_steady _
  case h_16 => exact .raise
  all_goals exact .skip

theorem sampleSize_runs (code : Nat) : Runs HeaderReadable HeaderReadable (sampleSize code) := by
  unfold sampleSize
  split
  case h_1 => exact readInfo_runs (by omega) (by omega) _
  case h_7 => exact .raise
  all_goals exact .skip

/-- FHDR writes NBLK last (R268). -/
theorem setFrameHeader_runs (h : FrameHeader) :
    Runs HeaderReadable (fun t => BlockKnown (nblkOf t) t) (Cmd.update (setFrameHeader h)) :=
  .update fun s hs => ⟨⟨hs.readable.cursor, hs.readable.written⟩, rfl, by
    rw [LeftUndef, setFrameHeader_undef, getLsbD_clearRange (by omega)]; simp⟩

theorem frameHeader_runs : Runs HeaderReadable (fun t => BlockKnown (nblkOf t) t) frameHeader :=
  have bits := readBits_runs headerReadable_steady
  .bind (.read _) fun _ => .guard fun _ => .bind (.read _) fun _ => .guard fun _ => .andThen (setCrcs_runs _ _) <|
  .bind (bits _) fun _ => .bind (.read _) fun _ => .guard fun _ => .bind (bits _) fun _ => .guard fun _ =>
  .bind (bits _) fun _ => .bind (bits _) fun _ => .guard fun _ => .bind (bits _) fun _ => .guard fun _ =>
  .bind (bits _) fun _ => .guard fun _ => .bind (bits _) fun _ => .guard fun _ => .bind (bits _) fun _ => .guard fun _ =>
  .bind (readNumber_runs headerReadable_steady) fun _ => .bind (blockSize_runs headerReadable_steady _) fun _ =>
  .bind (sampleRate_runs _) fun _ => .bind (.read _) fun _ => .bind (bits _) fun _ => .guard fun _ =>
  .bind (sampleSize_runs _) fun _ => .bind (readInfo_runs (by omega) (by omega) _) fun _ =>
  .bind (readInfo_runs (by omega) (by omega) _) fun _ => .guard fun _ =>
  .bind (readInfo_runs (by omega) (by omega) _) fun _ => .guard fun _ => .bind (.read _) fun _ => .guard fun _ =>
  .andThen (.update fun s hs => by
    split
    exacts [hs, setCrcs_runs State.crc8 (fun _ => 0) s hs]) <|
  setFrameHeader_runs _

/-- The blocks of the channels below k are filled. -/
structure ChannelsFilled (nblk k : Nat) (s : State) : Prop extends BlockKnown nblk s where
  smp : ∀ c i, c < k → i < nblk → (cellGet s.smp (smpAddress c i)).isSome = true

section Channels

variable {nblk k : Nat}

theorem channelsFilled_steady : Steady (ChannelsFilled nblk k) where
  readable h := h.readable
  reading h hr ht := by
    have known := h.toBlockKnown.reading hr ht
    unfold ReadingOnly at hr
    exact ⟨known, by rw [hr]; exact h.smp⟩

/-- SUBF fills its channel's block and touches no other channel's (R232). -/
theorem subframe_fillsChannel (hn : nblk ≤ 65535) (c bps : Nat) :
    Runs (ChannelsFilled nblk c) (ChannelsFilled nblk (c + 1)) (subframe c bps) := by
  have other : Leads (ChannelsFilled nblk c) (fun t => ∀ c' i, c' < c → i < nblk →
      (cellGet t.smp (smpAddress c' i)).isSome = true) (subframe c bps) := fun s t _ hs run c' i hc hi => by
    obtain ⟨-, -, -, outputs, -⟩ := (subframe_stays (subframeFootprint_allows c nblk) bps).of_ok hs.nblk_eq run
    have outside : smpAddress c' i < smpAddress c 0 := by unfold smpAddress; omega
    rw [outputs.smp.get _ fun inside => outside.not_ge inside.1]
    exact hs.smp c' i hc hi
  refine ((subframe_fills (nblk := nblk) c bps).and_leads (fun s h => ⟨h.toBlockKnown, nofun, nofun, nofun⟩) other).weaken
    fun t ⟨own, rest⟩ => ⟨own.toBlockKnown, fun c' i hc hi => ?_⟩
  obtain hc | rfl : c' < c ∨ c' = c := by omega
  exacts [rest c' i hc hi, own.smp i hi]

theorem decorrelatedPairs_runs (a bps : Nat) (hk : 2 ≤ k) : ∀ {count i : Nat}, i + count ≤ nblk →
    Runs (ChannelsFilled nblk k) (ChannelsFilled nblk k) (decorrelatedPairs a bps count i)
  | 0, _, _ => .skip
  | count + 1, i, hi => by
    have entry {c : Nat} (hc : c < k) : Runs (ChannelsFilled nblk k) (ChannelsFilled nblk k) (readSmp c i) :=
      readSmp_runs_of_isSome fun _ h => h.smp c i hc (by omega)
    exact .bind (entry (c := 0) (by omega)) fun _ => .bind (entry (c := 1) (by omega)) fun _ => .guard fun _ =>
      .bind (decorrelatedPairs_runs a bps hk (by omega)) fun _ => .skip

theorem writePairs_runs : ∀ (pairs : List (Int × Int)) (i : Nat), Runs (fun _ => True) (fun _ => True) (writePairs pairs i)
  | [], _ => .skip
  | _ :: rest, i => .andThen (.update fun _ h => h) <| .andThen (.update fun _ h => h) <| writePairs_runs rest (i + 1)

/-- The decorrelation reads channels 0 and 1, for the assignments 8 to 10 only (R240, R241). -/
theorem decorrelator_runs {a : Nat} (bps : Nat) (hk : 8 ≤ a → 2 ≤ k) :
    Runs (ChannelsFilled nblk k) (fun _ => True) (decorrelator a bps) := by
  rw [decorrelator_eq]
  exact checkedNblk_runs channelsFilled_steady (fun _ h => h.nblk_eq) (fun _ h => h.known) fun _ =>
    .ite (fun _ => .weaken .skip fun _ _ => trivial) fun ha =>
    .bind ((decorrelatedPairs_runs a bps (hk (by omega)) (by omega)).weaken fun _ _ => trivial) fun pairs =>
    writePairs_runs pairs 0

/-- Behind its header FRAME reads only what it has written (R280). -/
theorem frameRest_runs {h : FrameHeader} (hc : ChannelsAssigned h) (hn : nblk ≤ 65535) :
    Runs (ChannelsFilled nblk 0) (fun _ => True) (frameRest h) := by
  have footer := frameFooter_runs (channelsFilled_steady (nblk := nblk) (k := h.channels.toNat)) fun hs _ =>
    ⟨hs.toBlockKnown.write rfl, hs.smp⟩
  exact .andThen (.forRange_zero (I := fun c => ChannelsFilled nblk c) fun c _ => subframe_fillsChannel hn c _) <|
    .bind footer fun _ => .andThen (decorrelator_runs _ fun h8 => by rw [hc.eq_two h8]) .skip

end Channels

theorem frameBody_runs : Runs HeaderReadable (fun _ => True) frameBody := by
  have assigned : Leads HeaderReadable (fun t => NblkLegal t.fh ∧ ChannelsAssigned t.fh) frameHeader := fun _ _ _ _ run =>
    ⟨frameHeader_readsThen.of_ok run, ((frameHeader_ensures frameFootprint_allowsHeader).of_ok trivial run).1⟩
  rw [frameBody_eq]
  refine .andThen (frameHeader_runs.and_leads (fun _ h => h) assigned) fun s ⟨known, ⟨_, hn⟩, hc⟩ => ?_
  exact frameRest_runs hc hn s ⟨known, nofun⟩

/-! The commands. -/

theorem MarksSound.info_unspoiled (h : MarksSound s) {n : Nat} (h1 : 0x10 ≤ n) (h2 : n ≤ 0x17) :
    s.spoiled.getLsbD n = false := Bool.eq_false_iff.mpr fun hm => by
  have := ((marksSound_iff s).mp h).2 n hm
  omega

theorem Readable.begin (h : Readable s) : Readable (beginCommand s) := ⟨h.cursor, h.written⟩

theorem finishWith_runs (P : State → Prop) (v : Word) : Runs P (fun _ => True) (finishWith v) :=
  .andThen (.update fun _ _ => trivial) .skip

/-- The shape of RDB, RDS and RDR. -/
theorem readInto_runs {p : Prop} [Decidable p] {m : Cmd α} (hm : Runs Readable Readable m) (g : α → Word) :
    Runs Readable (fun _ => True) ((operandCheck p).andThen (m.bind fun v => finishWith (g v))) :=
  .guard fun _ => .bind hm fun _ => finishWith_runs _ _

theorem exec_cursor_next {i : Instr} (hi : isCursorCommand i = true) (hs : Readable s) : ∃ t, exec i s = .next t := by
  have read := readable_steady
  cases i <;> cases hi
  case rdb.refl n => exact (readInto_runs (readBits_runs read _) _).exists_next _ hs.begin
  case rds.refl n => exact (readInto_runs (readSigned_runs read _) _).exists_next _ hs.begin
  case rdr.refl k => exact (readInto_runs (readRice_runs read _) _).exists_next _ hs.begin
  case rdu.refl => exact (Runs.bind (readUnary_runs read) fun _ => finishWith_runs _ _).exists_next _ hs.begin
  case aln.refl => exact (Runs.andThen (byteAlign_runs read) .skip).exists_next _ hs.begin
  case gc8.refl | gc16.refl | crcr.refl => exact ⟨_, rfl⟩

end Sys2Proof.Machine

open Sys2Proof Sys2Proof.Machine

/-- Settles O53: reading meets written bytes only, StreamInfo is never left UNDEF, and what else RESD, SUBF and FRAME read they
have written themselves, but for the NBLK of RESD and SUBF, which the premise speaks of. -/
theorem streamCommandsAlwaysEnd : Obligations.StreamCommandsAlwaysEnd := by
  intro i s hi written bounded cursor marks nblk
  have readable : Readable s := ⟨⟨bounded, cursor⟩, written⟩
  have header : HeaderReadable (beginCommand s) := ⟨readable.begin, fun _ => marks.info_unspoiled⟩
  have block (c : Nat) (h : LeftUndef s 0x21 = false) : Filled c (nblkOf s) 0 0 0 (beginCommand s) :=
    ⟨⟨readable.begin, rfl, h⟩, nofun, nofun, nofun⟩
  cases i with
  | rdb | rds | rdu | rdr | aln | gc8 | gc16 | crcr => exact exec_cursor_next rfl readable
  | resd order =>
    have known := nblk (.inl ⟨order, rfl⟩)
    exact (Runs.guard fun _ => (residualSection_fills _).andThen .skip).exists_next _ (block 0 known)
  | subf c bps =>
    have known := nblk (.inr ⟨c, bps, rfl⟩)
    exact (Runs.guard fun _ => (subframe_fills _ _).andThen .skip).exists_next _ (block _ known)
  | fhdr => exact (frameHeader_runs.andThen .skip).exists_next _ header
  | fftr => exact (frameFooter_runs readable_steady fun h _ => ⟨h.cursor, h.written⟩).exists_next _ readable.begin
  | frame => exact frameBody_runs.exists_next _ header
  | _ => cases hi

end
